-- ==== Sys2Proof/Word.lean ====
section
/-! DEFINITION. The widths of this hardware (00_scope.md R7, R9, R12): all quantities are unsigned. -/

namespace Sys2Proof

/-- A byte, 8 bits everywhere (20_memory.md R50). -/
abbrev Byte := BitVec 8

/-- A 3-bit type code (R84). -/
abbrev U3 := BitVec 3

/-- A 13-bit value: the header's length, `DEC.LEN`, `DEC.IDX`, `DEC.REM` (10_state.md R21). -/
abbrev U13 := BitVec 13

/-- A 16-bit value: `sequence` (R87) and the header word (R82). -/
abbrev U16 := BitVec 16

/-- A 64-bit value: `snowflake`, `timestamp` (R86). -/
abbrev U64 := BitVec 64

/-- The source's own error value `E`, `ERR_W` = 32 bits on the ports (R9, D4). -/
abbrev ErrVal := BitVec 32

end Sys2Proof
end

