-- ==== Sys2Proof/Config.lean ====
section
/-! DEFINITION. The constants the source fixes (00_scope.md R7) and the implementation parameters (R8, R9). -/

namespace Sys2Proof

/-- `HDR_BYTES`: bytes in a header (R7). -/
def Config.hdrBytes : Nat := 2

/-- `LEN_MAX`: the largest value of the 13-bit length field (R7). -/
def Config.lenMax : Nat := 8191

/-- `TYPE_SS`: the type code of SpeakingStart (R7). -/
def Config.typeSs : U3 := 1

/-- `TYPE_AU`: the type code of Audio (R7). -/
def Config.typeAu : U3 := 2

/-- `SS_SIZE`: the exact payload size of SpeakingStart in bytes (R7). -/
def Config.ssSize : Nat := 16

/-- `AU_MIN`: the least payload size of Audio in bytes (R7). -/
def Config.auMin : Nat := 10

/-- `BUF_SIZE`: capacity of the decoder's payload buffer in bytes (R9, D11). -/
def Config.bufSize : Nat := 8191

/-- `DATA_LEN_W`: width of the `data_len` operand of `AU.SER` and `ENC.ENCODE` (R9, D14). -/
def Config.dataLenW : Nat := 16

/-- `PACK_LEN_W`: width of the `length` operand of `HDR.PACK` (R9, D14). -/
def Config.packLenW : Nat := 17

/-- The two build-time parameters a model takes as an argument: the policy ceiling `MAX_PAYLOAD` on a declared
length (R8, D3) and the source contract `SRC_FUSED`, "once END, always END" (R9, R36, D9). -/
structure Params where
  maxPayload : Nat
  srcFused   : Bool
  deriving DecidableEq, Repr

/-- This hardware: `MAX_PAYLOAD = 8191` (R8), `SRC_FUSED = true` (R9). -/
def Config.hardware : Params := { maxPayload := 8191, srcFused := true }

end Sys2Proof
end

