-- ==== Sys2Proof/Syntax.lean ====
section
/-! DEFINITION. The instructions (one constructor per row of spec/opcode_table.json), the packets, and the eight operations
of the block that are invoked on ports (00_scope.md R2, glossary "Operation"). -/

namespace Sys2Proof

/-- The decoded meaning of the 3-bit type (30_encoding.md R94): `K_UNKNOWN`, `K_SS`, `K_AU`. -/
inductive Kind where
  | unknown
  | ss
  | au
  deriving DecidableEq, Repr

/-- One constructor per type code (R89); the field is the header's 13-bit `length`, the immediate (R82, R83). -/
inductive Instr where
  | unknown0 (length : U13)
  | speakingStart (length : U13)
  | audio (length : U13)
  | unknown3 (length : U13)
  | unknown4 (length : U13)
  | unknown5 (length : U13)
  | unknown6 (length : U13)
  | unknown7 (length : U13)
  deriving DecidableEq, Repr

/-- The declared payload length of a header (R83). -/
def Instr.length : Instr → U13
  | .unknown0 l => l
  | .speakingStart l => l
  | .audio l => l
  | .unknown3 l => l
  | .unknown4 l => l
  | .unknown5 l => l
  | .unknown6 l => l
  | .unknown7 l => l

/-- The raw 3-bit type code of a header (R84, R89). -/
def Instr.typeCode : Instr → U3
  | .unknown0 _ => 0
  | .speakingStart _ => 1
  | .audio _ => 2
  | .unknown3 _ => 3
  | .unknown4 _ => 4
  | .unknown5 _ => 5
  | .unknown6 _ => 6
  | .unknown7 _ => 7

/-- The kind of a header: the column "kind" of R89's table. -/
def Instr.kind : Instr → Kind
  | .unknown0 _ => .unknown
  | .speakingStart _ => .ss
  | .audio _ => .au
  | .unknown3 _ => .unknown
  | .unknown4 _ => .unknown
  | .unknown5 _ => .unknown
  | .unknown6 _ => .unknown
  | .unknown7 _ => .unknown

/-- A packet, "exactly one of {SpeakingStart, Audio}" (glossary; fields of R86 and R87).
`data_len` (R38) is the length of `data` and is stored once. -/
inductive Packet where
  | speakingStart (snowflake timestamp : U64)
  | audio (snowflake : U64) (sequence : U16) (data : List Byte)
  deriving DecidableEq, Repr

/-- The eight operations of the block with their operand ports (R38; R110, R112, R131, R132, R134, R135, R150, R200).
A buffer operand carries its own length `n`. -/
inductive Op where
  | hdrUnpack (b0 b1 : Byte)
  | hdrPack (tag : U3) (length : Nat)
  | ssParse (buf : List Byte)
  | ssSer (snowflake timestamp : U64)
  | auParse (buf : List Byte)
  | auSer (snowflake : U64) (sequence : U16) (data : List Byte)
  | encEncode (packet : Packet)
  | decNext
  deriving DecidableEq, Repr

end Sys2Proof
end

