-- ==== Sys2Proof/Machine/Flags.lean ====
section
/-! DEFINITION. The flag-like outputs of the block: the `ok` of single operations (10_state.md R31). There is no flags register. -/

namespace Sys2Proof.Machine

/-- `ok` of `HDR.PACK`: the length is at most the field ceiling 8191 (R112). -/
def hdrPackOk (length : Nat) : Bool := decide (length ≤ Config.lenMax)

/-- `ok` of `SS.PARSE`: "succeeds iff len(buf) == 16" (R131). -/
def ssParseOk (n : Nat) : Bool := decide (n = Config.ssSize)

/-- `ok` of `AU.PARSE`: "succeeds iff len(buf) >= 10" (R134). -/
def auParseOk (n : Nat) : Bool := decide (Config.auMin ≤ n)

end Sys2Proof.Machine
end

