-- ==== Sys2Proof/Machine/Operands.lean ====
section
/-! DEFINITION. Byte order and field assembly (00_scope.md R12, 20_memory.md R54, 30_encoding.md R83, R84, R88). -/

namespace Sys2Proof.Machine

/-- The big-endian value of a byte sequence: the sum over i of `s[i] * 2^(8 * (len - 1 - i))` (R12). -/
def beNat : List Byte → Nat
  | [] => 0
  | b :: s => b.toNat * 2 ^ (8 * s.length) + beNat s

/-- The `n`-byte big-endian sequence of a value: byte i is `v[8*(n-1-i)+7 : 8*(n-1-i)]` (R12's `bytes_(8n)`). -/
def beBytes : Nat → Nat → List Byte
  | 0, _ => []
  | n + 1, v => BitVec.ofNat 8 (v / 2 ^ (8 * n)) :: beBytes n v

/-- `be_64` (R12), of 8 bytes. -/
def be64 (s : List Byte) : U64 := BitVec.ofNat 64 (beNat s)

/-- `be_16` (R12), of 2 bytes. -/
def be16 (s : List Byte) : U16 := BitVec.ofNat 16 (beNat s)

/-- `bytes_64` (R12). -/
def bytes64 (v : U64) : List Byte := beBytes 8 v.toNat

/-- `bytes_16` (R12). -/
def bytes16 (v : U16) : List Byte := beBytes 2 v.toNat

/-- `MemRead(addr, n)` on a buffer, before assembly: bytes `buf[addr .. addr+n-1]` (R12). -/
def slice (buf : List Byte) (addr n : Nat) : List Byte := (buf.drop addr).take n

/-- The length immediate `(b0 << 5) | (b1 >> 3)` (R83). -/
def headerLength (b0 b1 : Byte) : U13 :=
  (b0.setWidth 13 <<< 5) ||| (b1 >>> 3).setWidth 13

/-- The type code `b1 & 0x07` (R84). -/
def headerType (b1 : Byte) : U3 := (b1 &&& 0x07).setWidth 3

end Sys2Proof.Machine
end

