-- ==== Sys2Proof/Machine/Header.lean ====
section
/-! DEFINITION. Unit `HDR`, the header codec (40_header_codec.md). -/

namespace Sys2Proof.Machine

/-- "1→SpeakingStart, 2→Audio, anything else→Unknown" (R84, R110). -/
def kindOf (t : U3) : Kind :=
  if t = Config.typeSs then .ss else if t = Config.typeAu then .au else .unknown

/-- `HDR.UNPACK` (R110); total, compares the length with nothing (R111). -/
def hdrUnpack (b0 b1 : Byte) : U13 × Kind :=
  (headerLength b0 b1, kindOf (headerType b1))

/-- `HDR.PACK` (R112) for any tag (R113); `none` is `ok = 0`. -/
def hdrPack (tag : U3) (length : Nat) : Option (Byte × Byte) :=
  if hdrPackOk length then
    some (BitVec.ofNat 8 (length >>> 5), BitVec.ofNat 8 ((length &&& 0x1F) <<< 3 ||| tag.toNat))
  else
    none

end Sys2Proof.Machine
end

