-- ==== Sys2Proof/Machine/Payload.lean ====
section
/-! DEFINITION. Unit `PAY`, the payload marshaller (41_payload_codecs.md). A parse yields a complete record or nothing (R137). -/

namespace Sys2Proof.Machine

/-- `SS.PARSE` (R131): fails exactly when the buffer is not 16 bytes long. -/
def ssParse (buf : List Byte) : Option (U64 × U64) :=
  if ssParseOk buf.length then
    some (be64 (slice buf 0 8), be64 (slice buf 8 8))
  else
    none

/-- `SS.SER` (R132). -/
def ssSer (snowflake timestamp : U64) : List Byte :=
  bytes64 snowflake ++ bytes64 timestamp

/-- `AU.PARSE` (R134): snowflake, sequence, `data_len = n - 10` and a copy of the data. -/
def auParse (buf : List Byte) : Option (U64 × U16 × Nat × List Byte) :=
  if auParseOk buf.length then
    some (be64 (slice buf 0 8), be16 (slice buf 8 2), buf.length - Config.auMin, buf.drop Config.auMin)
  else
    none

/-- `AU.SER` (R135); `data_len` is the length of `data`, without a limit of the serialiser's own. -/
def auSer (snowflake : U64) (sequence : U16) (data : List Byte) : List Byte :=
  bytes64 snowflake ++ bytes16 sequence ++ data

end Sys2Proof.Machine
end

