-- ==== Sys2Proof/WellFormed.lean ====
section
/-! DEFINITION. What a term must satisfy to be presentable to the hardware: header lengths fit the field, operands fit their
ports, the ceiling parameter is in its range. -/

namespace Sys2Proof

/-- A header's length is in 0 .. 8191 (R24, R83). Its type already says so: "every one of the 65536 values of `W`
is a well-formed header" (R85), so this check refuses no instruction. -/
def Instr.wellFormed (i : Instr) : Bool :=
  decide (i.length.toNat ≤ Config.lenMax)

/-- The column "size law" of R89's table: the lengths for which the type's payload codec accepts the payload. An
instruction that breaks it is no ill-formed one: its behaviour is that of R90. -/
def Instr.sizeLegal : Instr → Bool
  | .speakingStart l => decide (l.toNat = Config.ssSize)
  | .audio l => decide (Config.auMin ≤ l.toNat)
  | .unknown0 _ | .unknown3 _ | .unknown4 _ | .unknown5 _ | .unknown6 _ | .unknown7 _ => true

/-- An Audio packet's `data_len` fits its `DATA_LEN_W`-bit port (R9, R38). -/
def Packet.wellFormed : Packet → Bool
  | .speakingStart _ _ => true
  | .audio _ _ data => decide (data.length < 2 ^ Config.dataLenW)

/-- The length operand of `HDR.PACK` fits its `PACK_LEN_W`-bit port, a packet or data operand its `DATA_LEN_W`-bit one (R9, R38). -/
def Op.wellFormed : Op → Bool
  | .hdrPack _ length => decide (length < 2 ^ Config.packLenW)
  | .auSer _ _ data => decide (data.length < 2 ^ Config.dataLenW)
  | .encEncode packet => packet.wellFormed
  | .hdrUnpack _ _ | .ssParse _ | .ssSer _ _ | .auParse _ | .decNext => true

/-- `0 <= MAX_PAYLOAD <= 8191` (R8); with `BUF_SIZE = 8191` this is also `BUF_SIZE >= MAX_PAYLOAD` (R9). -/
def Params.wellFormed (p : Params) : Bool :=
  decide (p.maxPayload ≤ Config.lenMax)

end Sys2Proof
end

