-- ==== Sys2Proof/Decode.lean ====
section
/-! DEFINITION. Reading a header (format HDR16, 30_encoding.md R81 to R84, R89) and writing one (R97's `hdr(t, L)`). -/

namespace Sys2Proof

/-- Why no header could be read from a byte list: the list ends before the header does. There is no other rejection,
since "any two bytes decode to *some* header" (R85). -/
inductive DecodeError where
  | noHeaderByte
  | oneHeaderByteOnly
  deriving DecidableEq, Repr

/-- The row of R89's table that a type code selects, with the length filled in. -/
def instrOfType (t : U3) (length : U13) : Instr :=
  match t.toNat with
  | 0 => .unknown0 length
  | 1 => .speakingStart length
  | 2 => .audio length
  | 3 => .unknown3 length
  | 4 => .unknown4 length
  | 5 => .unknown5 length
  | 6 => .unknown6 length
  | _ => .unknown7 length

/-- The header word `W = (b0 << 8) | b1` (R82). -/
def headerWord (b0 b1 : Byte) : U16 := b0 ++ b1

/-- The instruction of a header word: `type = W[2:0]`, `length = W[15:3]` (R82). -/
def decodeWord (w : U16) : Instr :=
  instrOfType (w.extractLsb' 0 3) (w.extractLsb' 3 13)

/-- The instruction of the two header bytes in wire order. -/
def decodeHeader (b0 b1 : Byte) : Instr :=
  decodeWord (headerWord b0 b1)

/-- Read one header from the front of a byte list; total, and a list too short is rejected by name. -/
def decode : List Byte → Except DecodeError (Instr × List Byte)
  | [] => .error .noHeaderByte
  | [_] => .error .oneHeaderByteOnly
  | b0 :: b1 :: rest => .ok (decodeHeader b0 b1, rest)

/-- A row of R89's table: a header word `w` is of this row when `w &&& mask = pattern`. -/
structure TypeRow where
  mnemonic : String
  pattern  : U16
  mask     : U16
  code     : U3
  kind     : Kind
  deriving DecidableEq, Repr

/-- R89's table. -/
def typeTable : List TypeRow :=
  [ { mnemonic := "UNKNOWN_0", pattern := 0x0000, mask := 0x0007, code := 0, kind := .unknown },
    { mnemonic := "SPEAKING_START", pattern := 0x0001, mask := 0x0007, code := 1, kind := .ss },
    { mnemonic := "AUDIO", pattern := 0x0002, mask := 0x0007, code := 2, kind := .au },
    { mnemonic := "UNKNOWN_3", pattern := 0x0003, mask := 0x0007, code := 3, kind := .unknown },
    { mnemonic := "UNKNOWN_4", pattern := 0x0004, mask := 0x0007, code := 4, kind := .unknown },
    { mnemonic := "UNKNOWN_5", pattern := 0x0005, mask := 0x0007, code := 5, kind := .unknown },
    { mnemonic := "UNKNOWN_6", pattern := 0x0006, mask := 0x0007, code := 6, kind := .unknown },
    { mnemonic := "UNKNOWN_7", pattern := 0x0007, mask := 0x0007, code := 7, kind := .unknown } ]

/-- The first header byte, `length[12:5]` (R81). -/
def encodeByte0 (i : Instr) : Byte :=
  i.length.extractLsb' 5 8

/-- The second header byte, `length[4:0]` above `type[2:0]` (R81). -/
def encodeByte1 (i : Instr) : Byte :=
  i.length.extractLsb' 0 5 ++ i.typeCode

/-- The two bytes of a header in wire order, R97's `hdr(t, L)`. -/
def encode (i : Instr) : List Byte :=
  [encodeByte0 i, encodeByte1 i]

/-- The first header byte of a word numbered as spec/opcode_table.json numbers it: bits 15 to 8 (R82). -/
def tableByte0 (w : Nat) : Byte := BitVec.ofNat 8 (w / 256)

/-- The second header byte of such a word: bits 7 to 0 (R82). -/
def tableByte1 (w : Nat) : Byte := BitVec.ofNat 8 w

/-- The instruction read from an instruction whose bits are `w`, numbered as the table numbers them: one 16-bit word,
stored most significant byte first (R54, R82). Bits at and above `nbits` are zero. -/
def decodeTableWord (nbits w : Nat) : Option Instr :=
  match decode [tableByte0 (w % 2 ^ nbits), tableByte1 (w % 2 ^ nbits)] with
  | .ok (i, _) => some i
  | .error _ => none

end Sys2Proof
end

