-- ==== Sys2Proof/Machine/State.lean ====
section
/-! DEFINITION. The state of the codec (10_state.md): the decoder's registers, its buffer, its ports, the ghost counters and
the environment's answers, as plain data; and the state after reset. -/

namespace Sys2Proof.Machine

/-- `DEC.ST`: the five states of R22. The three spare codes have no constructor (70_reset_and_hazards.md R252). -/
inductive DecSt where
  | idle
  | hdr0
  | hdr1
  | payload
  | skip
  deriving DecidableEq, Repr

/-- `DEC.PEND` (R28): which error is reported when the skip ends. -/
inductive Pend where
  | illegalSize
  | transport
  deriving DecidableEq, Repr

/-- One answer of the byte source to a pull (R34): `BYTE(b)`, `ERR(e)` or `END`. Response code 3 has no constructor (R96). -/
inductive Answer where
  | byte (b : Byte)
  | err (e : ErrVal)
  | fin
  deriving DecidableEq, Repr

/-- The five error items (60_exceptions.md R211). -/
inductive DecError where
  | unexpectedTermination
  | illegalSize
  | illegalSizedObject
  | unknownKind
  | transport (e : ErrVal)
  deriving DecidableEq, Repr

/-- One item of the item port (R37, R93): the end of the sequence, a packet, or an error. -/
inductive Item where
  | endOfStream
  | packet (p : Packet)
  | error (e : DecError)
  deriving DecidableEq, Repr

/-- An input of the decoder (42_streaming_decoder.md R151) or the block's other non-data input `rst` (60_exceptions.md R232). -/
inductive Event where
  | cmdNext
  | rsp (a : Answer)
  | rst
  deriving DecidableEq, Repr

/-- The payload buffer `BUF` (R30) as (index, byte) pairs: indices strictly rising, none listed with the byte an unlisted
index reads as. -/
abbrev Memory := List Host.Cell

/-- The state of the block and, last, of its environment. -/
structure State where
  /-- `DEC.ST` (R22). -/
  st : DecSt
  /-- `DEC.B0` (R23). -/
  b0 : Byte
  /-- `DEC.LEN` (R24). -/
  len : U13
  /-- `DEC.KIND` (R25). -/
  kind : Kind
  /-- `DEC.IDX` (R26). -/
  idx : U13
  /-- `DEC.REM` (R27). -/
  rem : U13
  /-- `DEC.PEND` (R28). -/
  pend : Pend
  /-- `DEC.PERR` (R28). -/
  perr : ErrVal
  /-- `BUF` (R30). -/
  buf : Memory
  /-- The item port (R37): the item delivered last, until the next `next` is accepted. -/
  item : Option Item
  /-- Source port: pulls that a reset abandoned and that the source has not answered yet (R251). -/
  stale : Nat
  /-- Ghost `POS` (R29). -/
  pos : Nat
  /-- The model's own ghost: pulls answered so far, END among them (for R180, R181, R267). -/
  pulls : Nat
  /-- The environment: the answers the source is going to give, in order (R11, R178). -/
  src : List Answer
  /-- The environment: `src` used up, no pull is answered until the source gives more (true, R185), or every pull is answered `END`
(false; for good under `SRC_FUSED`, R36). -/
  srcSilent : Bool
  deriving DecidableEq, Repr

/-- Why the machine has no step from a state. No instruction's meaning ends in one of these. -/
inductive Fault where
  /-- Raised by `step` and `pullStep` when a pull is outstanding and the source answers nothing: "a state with no step" (R35, U3). Safe. -/
  | pullUnanswered
  /-- Raised by `decStep` on `next` outside IDLE: "has no transition" (R153, U18). Safe. -/
  | nextWhileBusy
  /-- Raised by a payload byte at an index outside 0 .. 8190 (R30), in states no run reaches only. Safe. -/
  | bufIndexOutOfRange
  deriving DecidableEq, Repr

/-- Why the model gives an event no meaning. -/
inductive Refusal where
  /-- An instruction without a meaning; raised by no arm of this model. Safe. -/
  | notModelled (mnemonic : String)
  /-- Raised by `decStep` on an answer of the source with no pull outstanding: a violation of R263, to which "the spec
  gives no meaning" (R260, U10). Safe. -/
  | answerWithoutPull
  deriving DecidableEq, Repr

/-- What fetching a header comes to: an instruction with the state in which it is run, or an operation that ended or
came to wait before a header was complete. -/
inductive FetchResult where
  | header (i : Instr) (s : State)
  | ended (o : Host.Outcome State Fault Refusal)

/-- The result ports of the operations of `Op` (R38); `none` is `ok = 0` with no value (U13). -/
inductive OpResult where
  | header (length : U13) (kind : Kind)
  | packed (bytes : Option (Byte × Byte))
  | speakingStart (fields : Option (U64 × U64))
  | audio (fields : Option (U64 × U16 × Nat × List Byte))
  | bytes (out : List Byte)
  | encoded (out : Option (List Byte))
  | item (i : Option Item)
  deriving DecidableEq, Repr

/-- The state after reset or power-up (R40, R250): `IDLE`, no item pending, no pull outstanding, `POS` 0. The spec
leaves the other registers and `BUF` unspecified: DESIGN CHOICE, zero (log 4, log 5). The source is
empty and exhausted: DESIGN CHOICE (log 3). -/
def State.reset : State :=
  { st := .idle, b0 := 0, len := 0, kind := .unknown, idx := 0, rem := 0, pend := .illegalSize, perr := 0,
    buf := [], item := none, stale := 0, pos := 0, pulls := 0, src := [], srcSilent := false }

end Sys2Proof.Machine
end

