-- ==== Sys2Proof/Machine/Ops.lean ====
section
/-! DEFINITION. The shared operations: `BUF` accesses, the pull bookkeeping, the register updates of the transitions, delivering an
item, raising an error (the analogue of taking an exception) and going on after it, reset and binding of the source. -/

namespace Sys2Proof.Machine

/-! ## The payload buffer -/

/-- What an unlisted index of `BUF` reads as. The spec leaves the contents unspecified and reads none of them (R30, R41): DESIGN
CHOICE, 0 (log 5). -/
def bufFill : Byte := 0

/-- Read one byte. -/
def Memory.read : Memory → Nat → Byte
  | [], _ => bufFill
  | (k, v) :: m, a => if k = a then v else Memory.read m a

/-- Unlist an index. -/
def Memory.erase : Memory → Nat → Memory
  | [], _ => []
  | (k, v) :: m, a => if k = a then Memory.erase m a else (k, v) :: Memory.erase m a

/-- List an index with a byte, at its place in the rising order. -/
def Memory.insert : Memory → Nat → Byte → Memory
  | [], a, b => [(a, b)]
  | (k, v) :: m, a, b =>
    if a < k then (a, b) :: (k, v) :: m
    else if a = k then (a, b) :: m
    else (k, v) :: Memory.insert m a b

/-- Write one byte, keeping the canonical form. -/
def Memory.write (m : Memory) (a : Nat) (b : Byte) : Memory :=
  if b = bufFill then m.erase a else m.insert a b

/-- Write bytes at consecutive indices from `a` on, in order. -/
def Memory.writeBytes (m : Memory) (a : Nat) : List Byte → Memory
  | [] => m
  | b :: bs => Memory.writeBytes (m.write a b) (a + 1) bs

/-- The bytes at `n` consecutive indices from `a` on. -/
def Memory.readBytes (m : Memory) (a : Nat) : Nat → List Byte
  | 0 => []
  | n + 1 => m.read a :: Memory.readBytes m (a + 1) n

/-- The canonical form within `BUF`'s indices 0 .. 8190, every listed index being at least `low`. -/
def Memory.wfFrom (low : Nat) : Memory → Bool
  | [] => true
  | (k, v) :: m => decide (low ≤ k) && decide (k < Config.bufSize) && decide (v ≠ bufFill) && Memory.wfFrom (k + 1) m

/-- The canonical form: indices strictly rising and below 8191, no entry equal to what an unlisted index reads as. -/
def Memory.wf (m : Memory) : Bool := m.wfFrom 0

/-! ## The source port -/

/-- `src_req`: a pull is outstanding, exactly in the states R22 marks so (R34). -/
def State.srcReq (s : State) : Bool :=
  match s.st with
  | .idle => false
  | .hdr0 | .hdr1 | .payload | .skip => true

/-- Count an answered pull: `POS` by one for BYTE and ERR, not for END (R29, R56). -/
def State.count (s : State) : Answer → State
  | .byte _ => { s with pos := s.pos + 1, pulls := s.pulls + 1 }
  | .err _ => { s with pos := s.pos + 1, pulls := s.pulls + 1 }
  | .fin => { s with pulls := s.pulls + 1 }

/-- What the source still has to give after an answer: an element is consumed for good (R56). After END the source stays
at END when `SRC_FUSED` (R36), and goes on with the elements behind it otherwise. -/
def sourceAfter (p : Params) (a : Answer) (rest : List Answer) : List Answer :=
  match a with
  | .byte _ => rest
  | .err _ => rest
  | .fin => if p.srcFused then .fin :: rest else rest

/-- The source's answer to a pull, and what it then still has to give; `none` if the pull is not answered (R35, R185). The list used up, a
source that is not silent answers END and, giving nothing more, END again (R36). -/
def State.pullAnswer (p : Params) (s : State) : Option (Answer × List Answer) :=
  match s.src with
  | [] => if s.srcSilent then none else some (.fin, [])
  | a :: as => some (a, sourceAfter p a as)

/-- Move the source. -/
def State.withSrc (s : State) (as : List Answer) : State := { s with src := as }

/-! ## Register updates of the transitions -/

/-- `DEC.ST <- st`. -/
def State.enter (s : State) (st : DecSt) : State := { s with st := st }

/-- `DEC.B0 <- b` (R155). -/
def State.latchB0 (s : State) (b : Byte) : State := { s with b0 := b }

/-- `DEC.LEN <- L`, `DEC.KIND <- K`, `DEC.IDX <- 0` (R158). -/
def State.latchHeader (s : State) (l : U13) (k : Kind) : State := { s with len := l, kind := k, idx := 0 }

/-- `BUF[DEC.IDX] <- b`, `DEC.IDX <- DEC.IDX + 1` (R164). -/
def State.storeByte (s : State) (b : Byte) : State :=
  { s with buf := s.buf.write s.idx.toNat b, idx := s.idx + 1 }

/-- Latch `IllegalSize` and the whole length to skip (R163); `DEC.PERR` is not written. -/
def State.latchIllegalSize (s : State) (owed : U13) : State := { s with rem := owed, pend := .illegalSize }

/-- Latch a transport error and the bytes still owed (R166). -/
def State.latchTransport (s : State) (owed : U13) (e : ErrVal) : State :=
  { s with rem := owed, pend := .transport, perr := e }

/-- `DEC.REM <- DEC.REM - 1` (R169). -/
def State.countDown (s : State) : State := { s with rem := s.rem - 1 }

/-! ## Items, errors, and going on -/

/-- Deliver an item: it stands on the item port and `DEC.ST <- IDLE` in the same transition (R172). -/
def State.emit (s : State) (i : Item) : State := { s with item := some i, st := .idle }

/-- `raise <Error>`: the error item and the return to IDLE, in one transition; nothing is saved anywhere else (R222). -/
def State.raise (s : State) (e : DecError) : State := s.emit (.error e)

/-- The report after a skip: the error latched before it (R171). -/
def State.report (s : State) : State :=
  match s.pend with
  | .illegalSize => s.raise .illegalSize
  | .transport => s.raise (.transport s.perr)

/-- Accept `next` (R152), which is also the return from an error (R224): the consumer has taken the last item (R259) and the pull
for header byte 0 is issued. -/
def State.acceptNext (s : State) : State := { s with st := .hdr0, item := none }

/-! ## Dispatch on the kind -/

/-- The buffer the dispatch reads: `BUF[0 .. LEN-1]` (R173). -/
def State.payload (s : State) : List Byte := s.buf.readBytes 0 s.len.toNat

/-- R174. -/
def State.dispatchSpeakingStart (s : State) : State :=
  match ssParse s.payload with
  | some (snowflake, timestamp) => s.emit (.packet (.speakingStart snowflake timestamp))
  | none => s.raise .illegalSizedObject

/-- R175. -/
def State.dispatchAudio (s : State) : State :=
  match auParse s.payload with
  | some (snowflake, sequence, _, data) => s.emit (.packet (.audio snowflake sequence data))
  | none => s.raise .illegalSizedObject

/-- R176: the buffer is not read. -/
def State.dispatchUnknown (s : State) : State := s.raise .unknownKind

/-- The dispatch with a complete buffer (R173). -/
def State.dispatch (s : State) : State :=
  match s.kind with
  | .ss => s.dispatchSpeakingStart
  | .au => s.dispatchAudio
  | .unknown => s.dispatchUnknown

/-! ## Reset and binding -/

/-- A reset abandons the outstanding pull, whose answer, if it later arrives, is ignored (R251). -/
def State.abandoned (s : State) : Nat := if s.srcReq then s.stale + 1 else s.stale

/-- `rst` (R250, R251, R253): `DEC` as after reset; the source, its position and `POS` are not touched. -/
def State.assertRst (s : State) : State :=
  { State.reset with
    stale := s.abandoned, pos := s.pos, pulls := s.pulls, src := s.src, srcSilent := s.srcSilent }

/-- A decoder newly bound to a source that will give the answers `as` and then END (`silent = false`) or nothing: a reset
together with `POS` = 0 (R255, R256). -/
def State.bound (as : List Answer) (silent : Bool) : State :=
  { State.reset with src := as, srcSilent := silent }

/-- The environment's input: the source comes to give further answers after those it already held (R35, R65). Under `SRC_FUSED` a source
whose list is followed by END takes none: "once a pull is answered `END`, every later pull of that source is answered `END`" (R36, R263). A
source that may still go on is a silent one, and its end is an `END` in the list. -/
def State.offer (p : Params) (s : State) (as : List Answer) : State :=
  if p.srcFused && !s.srcSilent then s else s.withSrc (s.src ++ as)

end Sys2Proof.Machine
end

