-- ==== Sys2Proof/Machine/Decoder.lean ====
section
/-! DEFINITION. The streaming decoder's transitions (42_streaming_decoder.md R152 to R172), one per answer of the source: the
Mealy machine `DecStep` of R151. Each transition takes the state after the answer is counted. -/

namespace Sys2Proof.Machine

/-- The outcome of a transition. -/
abbrev Result := Host.Outcome State Fault Refusal

/-- State HDR0: R154 (END), R155 (BYTE), R156 (ERR). -/
def onHdr0 (a : Answer) (s : State) : State :=
  match a with
  | .fin => s.emit .endOfStream
  | .byte b => (s.latchB0 b).enter .hdr1
  | .err e => s.raise (.transport e)

/-- The header is complete (R158) and the branch after it, in the order of R160: the ceiling (R163), the empty payload (R161), the
payload (R162). -/
def acceptHeader (p : Params) (l : U13) (k : Kind) (s : State) : State :=
  if p.maxPayload < l.toNat then
    ((s.latchHeader l k).latchIllegalSize l).enter .skip
  else if l = 0 then
    (s.latchHeader l k).dispatch
  else
    (s.latchHeader l k).enter .payload

/-- State HDR1: R157 (END), R158 (BYTE), R159 (ERR). -/
def onHdr1 (p : Params) (a : Answer) (s : State) : State :=
  match a with
  | .fin => s.raise .unexpectedTermination
  | .byte b => acceptHeader p (hdrUnpack s.b0 b).1 (hdrUnpack s.b0 b).2 s
  | .err e => s.raise (.transport e)

/-- A payload byte is stored; with the last one the dispatch follows in the same transition (R164). -/
def acceptByte (b : Byte) (s : State) : State :=
  if (s.storeByte b).idx = s.len then (s.storeByte b).dispatch else s.storeByte b

/-- A pull for payload byte `k = DEC.IDX` failed: `REM <- LEN - k - 1`, and the skip if any byte is owed (R166). -/
def payloadError (e : ErrVal) (s : State) : State :=
  if s.len - s.idx - 1 = 0 then
    (s.latchTransport (s.len - s.idx - 1) e).raise (.transport e)
  else
    (s.latchTransport (s.len - s.idx - 1) e).enter .skip

/-- State PAYLOAD: R164 (BYTE), R165 (END), R166 (ERR). An index outside `BUF` (R30), which no run reaches, faults. -/
def onPayload (a : Answer) (s : State) : Result :=
  match a with
  | .fin => .next (s.raise .unexpectedTermination)
  | .byte b => if s.idx.toNat < Config.bufSize then .next (acceptByte b s) else .fault .bufIndexOutOfRange
  | .err e => .next (payloadError e s)

/-- One owed pull is answered; the element is thrown away (R169). -/
def skipOne (s : State) : State :=
  if s.countDown.rem = 0 then s.countDown.report else s.countDown

/-- State SKIP: R169 (BYTE and ERR alike), R170 (END). -/
def onSkip (a : Answer) (s : State) : State :=
  match a with
  | .fin => s.report
  | .byte _ => skipOne s
  | .err _ => skipOne s

/-- The transition on an answer of the source (R151); in IDLE no pull is outstanding and an answer has no meaning (R260, R263). -/
def onAnswer (p : Params) (a : Answer) (s : State) : Result :=
  match s.st with
  | .idle => .refused .answerWithoutPull
  | .hdr0 => .next (onHdr0 a (s.count a))
  | .hdr1 => .next (onHdr1 p a (s.count a))
  | .payload => onPayload a (s.count a)
  | .skip => .next (onSkip a (s.count a))

/-- The answer of a pull that a reset abandoned is ignored (R251); the element is consumed (R56). -/
def ignoreStale (a : Answer) (s : State) : State := { s.count a with stale := s.stale - 1 }

/-- `DecStep` (R151), with `rst` (R232, R250). `next` outside IDLE has no transition (R153). -/
def decStep (p : Params) (s : State) : Event → Result
  | .cmdNext => if s.st = .idle then .next s.acceptNext else .fault .nextWhileBusy
  | .rsp a => if 0 < s.stale then .next (ignoreStale a s) else onAnswer p a s
  | .rst => .next s.assertRst

/-- The decoder and its source together, at the grain of R151: the source's own answer to a pull, and the transition on it. The answer keeps
the source's contract (R36, R263); `decStep` alone takes any answer (R35). -/
def pullStep (p : Params) (s : State) : Result :=
  match s.pullAnswer p with
  | some (a, rest) => decStep p (s.withSrc rest) (.rsp a)
  | none => .fault .pullUnanswered

end Sys2Proof.Machine
end

