-- ==== Sys2Proof/Machine/Run.lean ====
section
/-! DEFINITION. Running the transitions, one per answer, until an item is delivered or the source does not answer; and running one
instruction, a header being complete. -/

namespace Sys2Proof.Machine

/-- Run the transitions on the answers `as` the source is going to give, starting in a state with a pull outstanding. When they are
used up, the pull is answered END, or, the source being silent, the decoder waits (R185). -/
def run (p : Params) : List Answer → State → Result
  | [], s => if s.srcSilent then .next (s.withSrc []) else onAnswer p .fin (s.withSrc [])
  | a :: as, s =>
    match onAnswer p a (s.withSrc (sourceAfter p a as)) with
    | .next t => if t.st = .idle then .next t else run p as t
    | .fault f => .fault f
    | .refused r => .refused r

/-- Go on with the operation in progress, if there is one. -/
def resume (p : Params) (s : State) : Result :=
  if s.st = .idle then .next s else run p s.src s

/-- One instruction: the header transition (R158, R160 to R163), then the payload or the skip up to the item. -/
def execHeader (p : Params) (l : U13) (k : Kind) (s : State) : Result :=
  resume p (acceptHeader p l k s)

end Sys2Proof.Machine
end

