-- ==== Sys2Proof/Machine/Audio.lean ====
section
/-! DEFINITION. The meaning of AUDIO. -/

namespace Sys2Proof.Machine

/-- R175, kind `K_AU`: collect `length` bytes, then an Audio packet if `length` is at least 10, `IllegalSizedObject` otherwise. -/
def execAudio (length : U13) (s : State) : Result :=
  execHeader Config.hardware length .au s

end Sys2Proof.Machine
end

