-- ==== Sys2Proof/Machine/SpeakingStart.lean ====
section
/-! DEFINITION. The meaning of SPEAKING_START. -/

namespace Sys2Proof.Machine

/-- R174, kind `K_SS`: collect `length` bytes, then a SpeakingStart packet if `length` is 16, `IllegalSizedObject` otherwise. -/
def execSpeakingStart (length : U13) (s : State) : Result :=
  execHeader Config.hardware length .ss s

end Sys2Proof.Machine
end

