-- ==== Sys2Proof/Machine/Unknown.lean ====
section
/-! DEFINITION. The meanings of the six unknown type codes (R176): collect `length` bytes, then `UnknownKind`. "A model must not
treat them as no-ops or as aliases of type 1 or 2" (R90). -/

namespace Sys2Proof.Machine

/-- R176, type 0. -/
def execUnknown0 (length : U13) (s : State) : Result :=
  execHeader Config.hardware length .unknown s

/-- R176, type 3. -/
def execUnknown3 (length : U13) (s : State) : Result :=
  execHeader Config.hardware length .unknown s

/-- R176, type 4. -/
def execUnknown4 (length : U13) (s : State) : Result :=
  execHeader Config.hardware length .unknown s

/-- R176, type 5. -/
def execUnknown5 (length : U13) (s : State) : Result :=
  execHeader Config.hardware length .unknown s

/-- R176, type 6. -/
def execUnknown6 (length : U13) (s : State) : Result :=
  execHeader Config.hardware length .unknown s

/-- R176, type 7. -/
def execUnknown7 (length : U13) (s : State) : Result :=
  execHeader Config.hardware length .unknown s

end Sys2Proof.Machine
end

