-- ==== Sys2Proof/Machine/Dispatch.lean ====
section
/-! DEFINITION. One arm per row of spec/opcode_table.json (30_encoding.md R89). -/

namespace Sys2Proof.Machine

def exec (i : Instr) (s : State) : Host.Outcome State Fault Refusal :=
  match i with
  | .unknown0 length => Sys2Proof.Machine.execUnknown0 length s
  | .speakingStart length => Sys2Proof.Machine.execSpeakingStart length s
  | .audio length => Sys2Proof.Machine.execAudio length s
  | .unknown3 length => Sys2Proof.Machine.execUnknown3 length s
  | .unknown4 length => Sys2Proof.Machine.execUnknown4 length s
  | .unknown5 length => Sys2Proof.Machine.execUnknown5 length s
  | .unknown6 length => Sys2Proof.Machine.execUnknown6 length s
  | .unknown7 length => Sys2Proof.Machine.execUnknown7 length s

end Sys2Proof.Machine
end

