-- ==== Sys2Proof/Machine/Fetch.lean ====
section
/-! DEFINITION. The start of one `DEC.NEXT`: accepting `next`, ignoring the answers of abandoned pulls, and pulling the two header
bytes (R152 to R159); and placing a header word where the next operation pulls it. -/

namespace Sys2Proof.Machine

/-- Every abandoned pull is answered END, and the answers are ignored (R251). -/
def ignoreAllStale (s : State) : State := { s with stale := 0, pulls := s.pulls + s.stale }

/-- The answers of abandoned pulls come first, pulls being answered in order (R60), and are ignored (R251). -/
def flushStale (p : Params) : List Answer → State → State
  | [], s => if s.srcSilent then s.withSrc [] else ignoreAllStale (s.withSrc [])
  | a :: as, s =>
    if s.stale = 0 then s.withSrc (a :: as)
    else if a = .fin ∧ p.srcFused then ignoreAllStale (s.withSrc (a :: as))
    else flushStale p as (ignoreStale a s)

/-- Pull header byte 1: with a byte the header is complete, and its instruction is what it decodes to (R158). -/
def fetchSecond (p : Params) (s : State) : FetchResult :=
  match s.src with
  | .byte b1 :: rest => .header (decodeHeader s.b0 b1) ((s.withSrc rest).count (.byte b1))
  | _ => .ended (run p s.src s)

/-- Pull header byte 0 (R154 to R156). -/
def fetchFirst (p : Params) (s : State) : FetchResult :=
  match s.src with
  | .byte b0 :: rest => fetchSecond p (onHdr0 (.byte b0) ((s.withSrc rest).count (.byte b0)))
  | _ => .ended (run p s.src s)

/-- In IDLE the consumer commands `next` (R152); in any other state the operation is in progress (R153). -/
def commanded (s : State) : State := if s.st = .idle then s.acceptNext else s

/-- A pull is outstanding and the source answers nothing: no step (R35, R185). -/
def blocked (s : State) : Bool := s.srcReq && s.src.isEmpty && s.srcSilent

/-- After the abandoned pulls: the header's bytes, or the rest of an operation whose header is complete. -/
def fetchFrom (p : Params) (s : State) : FetchResult :=
  if s.stale ≠ 0 then .ended (.next s)
  else
    match s.st with
    | .hdr0 => fetchFirst p s
    | .hdr1 => fetchSecond p s
    | .idle | .payload | .skip => .ended (resume p s)

/-- Fetch the next instruction. -/
def fetch (p : Params) (s : State) : FetchResult :=
  if blocked s then .ended (.fault .pullUnanswered)
  else fetchFrom p (flushStale p (commanded s).src (commanded s))

/-- The two bytes of a header word in front of the source of an idle decoder (R65). -/
def placeHeader (b0 b1 : Byte) (s : State) : State :=
  { s with st := .idle, stale := 0, src := .byte b0 :: .byte b1 :: s.src }

/-- Place the word `w`, its bits numbered as the opcode table numbers them. -/
def placeTableWord (nbits w : Nat) (s : State) : State :=
  placeHeader (tableByte0 (w % 2 ^ nbits)) (tableByte1 (w % 2 ^ nbits)) s

/-- One operation as a run of transitions alone, for any parameters: what `step` comes to, without going through the instructions. -/
def decNext (p : Params) (s : State) : Result :=
  if blocked s then .fault .pullUnanswered
  else
    if (flushStale p (commanded s).src (commanded s)).stale ≠ 0 then
      .next (flushStale p (commanded s).src (commanded s))
    else
      resume p (flushStale p (commanded s).src (commanded s))

end Sys2Proof.Machine
end

