-- ==== Sys2Proof/Machine/Step.lean ====
section
/-! DEFINITION. One step: one `DEC.NEXT` (42_streaming_decoder.md R150), from `next` to its item, or as far as the source answers. -/

namespace Sys2Proof.Machine

/-- Fetch a header and run its instruction. -/
def step (s : State) : Host.Outcome State Fault Refusal :=
  match fetch Config.hardware s with
  | .header i t => exec i t
  | .ended o => o

/-- `s` with an instruction's word in front of the source, the decoder idle. -/
def State.withFetchWord (s : State) (nbits w : Nat) : State :=
  placeTableWord nbits w s

end Sys2Proof.Machine
end

