-- ==== Sys2Proof/Machine/Encoder.lean ====
section
/-! DEFINITION. Unit `ENC`, the stateless encoder (43_encoder.md). -/

namespace Sys2Proof.Machine

/-- The tag by the packet's variant and by nothing else (R201). -/
def packetTag : Packet → U3
  | .speakingStart _ _ => Config.typeSs
  | .audio _ _ _ => Config.typeAu

/-- The serialised payload of a packet (R200). -/
def packetPayload : Packet → List Byte
  | .speakingStart s t => ssSer s t
  | .audio s q d => auSer s q d

/-- `ENC.ENCODE` (R200): header and payload, or nothing at all (R203); the size test is the one inside `HDR.PACK` (R202). -/
def encEncode (p : Packet) : Option (List Byte) :=
  match hdrPack (packetTag p) (packetPayload p).length with
  | some (b0, b1) => some (b0 :: b1 :: packetPayload p)
  | none => none

end Sys2Proof.Machine
end

