-- ==== Sys2Proof/Machine/Ports.lean ====
section
/-! DEFINITION. The ports and their numeric codes (10_state.md R34, R37, R38; 30_encoding.md R93 to R96). A field that carries
no meaning for its item has no value (U14). -/

namespace Sys2Proof.Machine

/-- `item_kind` (R93). -/
def Item.code : Item → U3
  | .endOfStream => 0
  | .packet (.speakingStart _ _) => 1
  | .packet (.audio _ _ _) => 2
  | .error .unexpectedTermination => 3
  | .error .illegalSize => 4
  | .error .illegalSizedObject => 5
  | .error .unknownKind => 6
  | .error (.transport _) => 7

/-- `item_snowflake` (R37). -/
def Item.snowflake : Item → Option U64
  | .packet (.speakingStart s _) => some s
  | .packet (.audio s _ _) => some s
  | .endOfStream | .error _ => none

/-- `item_timestamp`, SpeakingStart only (R37). -/
def Item.timestamp : Item → Option U64
  | .packet (.speakingStart _ t) => some t
  | .packet (.audio _ _ _) | .endOfStream | .error _ => none

/-- `item_sequence`, Audio only (R37). -/
def Item.sequence : Item → Option U16
  | .packet (.audio _ q _) => some q
  | .packet (.speakingStart _ _) | .endOfStream | .error _ => none

/-- `item_data`, Audio only (R37). -/
def Item.data : Item → Option (List Byte)
  | .packet (.audio _ _ d) => some d
  | .packet (.speakingStart _ _) | .endOfStream | .error _ => none

/-- `item_data_len`, 13 bits, Audio only (R37). -/
def Item.dataLen : Item → Option U13
  | .packet (.audio _ _ d) => some (BitVec.ofNat 13 d.length)
  | .packet (.speakingStart _ _) | .endOfStream | .error _ => none

/-- `item_err`, transport error only (R37). -/
def Item.errVal : Item → Option ErrVal
  | .error (.transport e) => some e
  | .error .unexpectedTermination | .error .illegalSize | .error .illegalSizedObject | .error .unknownKind => none
  | .endOfStream | .packet _ => none

/-- The code of a kind (R94). -/
def kindCode : Kind → BitVec 2
  | .unknown => 0
  | .ss => 1
  | .au => 2

/-- The code of `DEC.ST` (R95). -/
def DecSt.code : DecSt → U3
  | .idle => 0
  | .hdr0 => 1
  | .hdr1 => 2
  | .payload => 3
  | .skip => 4

/-- The code of `DEC.PEND` (R95). -/
def Pend.code : Pend → BitVec 1
  | .illegalSize => 0
  | .transport => 1

/-- `src_rsp_kind` (R96). -/
def Answer.code : Answer → BitVec 2
  | .byte _ => 0
  | .err _ => 1
  | .fin => 2

/-- The answer on the source port's signals (R34): `src_rsp_byte` has a meaning with BYTE only, `src_rsp_err` with ERR only, and
code 3 is refused (R96). -/
def answerOfPort (rspKind : BitVec 2) (rspByte : Byte) (rspErr : ErrVal) : Option Answer :=
  if rspKind = 0 then some (.byte rspByte)
  else if rspKind = 1 then some (.err rspErr)
  else if rspKind = 2 then some .fin
  else none

/-- `enc_ok` (R38, R200). -/
def encOk (p : Packet) : Bool := (encEncode p).isSome

/-- `enc_len`, the number of bytes delivered to the sink (R38); no value when `enc_ok = 0`. -/
def encLen (p : Packet) : Option Nat := (encEncode p).map List.length

end Sys2Proof.Machine
end

