-- ==== Sys2Proof/Machine/Interface.lean ====
section
/-! DEFINITION. The eight operations of the block as the outside invokes them (10_state.md R37, R38): `DEC.NEXT` steps the decoder,
the others are functions of their operands alone (R33) and can be used in any state (70_reset_and_hazards.md R254, R264). -/

namespace Sys2Proof.Machine

/-- The result of a stateless operation. -/
def pureResult : Op → Option OpResult
  | .hdrUnpack b0 b1 => some (.header (hdrUnpack b0 b1).1 (hdrUnpack b0 b1).2)
  | .hdrPack tag length => some (.packed (hdrPack tag length))
  | .ssParse buf => some (.speakingStart (ssParse buf))
  | .ssSer snowflake timestamp => some (.bytes (ssSer snowflake timestamp))
  | .auParse buf => some (.audio (auParse buf))
  | .auSer snowflake sequence data => some (.bytes (auSer snowflake sequence data))
  | .encEncode packet => some (.encoded (encEncode packet))
  | .decNext => none

/-- Invoke an operation: its result and the state after it. -/
def operate (op : Op) (s : State) : Host.Outcome (State × OpResult) Fault Refusal :=
  match pureResult op with
  | some r => .next (s, r)
  | none =>
    match step s with
    | .next t => .next (t, .item t.item)
    | .fault f => .fault f
    | .refused r => .refused r

end Sys2Proof.Machine
end

