-- ==== Sys2Proof/Machine/Procedure.lean ====
section
/-! DEFINITION. `DEC.NEXT` as one sequential procedure over the source's answers (42_streaming_decoder.md R177, R178), written
without the registers and the transitions, for a source that answers every pull. -/

namespace Sys2Proof.Machine

/-- `Skip(n)` (R177). -/
def skipPulls (p : Params) : Nat → List Answer → List Answer
  | 0, as => as
  | _ + 1, [] => []
  | n + 1, a :: as => if a = .fin then sourceAfter p a as else skipPulls p n as

/-- What collecting the payload comes to (R177, step 5): all its bytes, END too early, or an error with pulls still owed. -/
inductive Collected where
  | full (bytes : List Byte) (rest : List Answer)
  | short (rest : List Answer)
  | broken (e : ErrVal) (owed : Nat) (rest : List Answer)
  deriving DecidableEq, Repr

/-- A byte in front of what was collected. -/
def Collected.cons (b : Byte) : Collected → Collected
  | .full bytes rest => .full (b :: bytes) rest
  | .short rest => .short rest
  | .broken e owed rest => .broken e owed rest

/-- Pull `n` payload bytes. -/
def collect (p : Params) : Nat → List Answer → Collected
  | 0, as => .full [] as
  | _ + 1, [] => .short []
  | n + 1, .byte b :: as => (collect p n as).cons b
  | n + 1, .err e :: as => .broken e n as
  | _ + 1, .fin :: as => .short (sourceAfter p .fin as)

/-- Step 6: the item of a complete buffer (R174 to R176). -/
def itemOf (k : Kind) (bytes : List Byte) : Item :=
  match k with
  | .ss =>
    match ssParse bytes with
    | some (snowflake, timestamp) => .packet (.speakingStart snowflake timestamp)
    | none => .error .illegalSizedObject
  | .au =>
    match auParse bytes with
    | some (snowflake, sequence, _, data) => .packet (.audio snowflake sequence data)
    | none => .error .illegalSizedObject
  | .unknown => .error .unknownKind

/-- Steps 4 to 6, the header being complete. -/
def afterHeader (p : Params) (l : Nat) (k : Kind) (as : List Answer) : Item × List Answer :=
  if p.maxPayload < l then (.error .illegalSize, skipPulls p l as)
  else
    match collect p l as with
    | .full bytes rest => (itemOf k bytes, rest)
    | .short rest => (.error .unexpectedTermination, rest)
    | .broken e owed rest => (.error (.transport e), skipPulls p owed rest)

/-- `DecodeNext(S) = (item, S')` (R178). -/
def decodeNext (p : Params) : List Answer → Item × List Answer
  | [] => (.endOfStream, [])
  | .fin :: as => (.endOfStream, sourceAfter p .fin as)
  | .err e :: as => (.error (.transport e), as)
  | [.byte _] => (.error .unexpectedTermination, [])
  | .byte _ :: .fin :: as => (.error .unexpectedTermination, sourceAfter p .fin as)
  | .byte _ :: .err e :: as => (.error (.transport e), as)
  | .byte b0 :: .byte b1 :: as => afterHeader p (hdrUnpack b0 b1).1.toNat (hdrUnpack b0 b1).2 as

/-- `DecodeAll(S)` (R178), making at most `fuel` operations. -/
def decodeAll (p : Params) : Nat → List Answer → List Item
  | 0, _ => []
  | fuel + 1, as =>
    if (decodeNext p as).1 = .endOfStream then []
    else (decodeNext p as).1 :: decodeAll p fuel (decodeNext p as).2

end Sys2Proof.Machine
end

