-- ==== Sys2Proof/Safety.lean ====
section
/-! DEFINITION. What the statements speak of: the decoder's invariant, the items of a run, the stream of a byte sequence. -/

namespace Sys2Proof.Machine

/-- The invariant of the decoder's registers (10_state.md R26, R27; 42_streaming_decoder.md section 5 and R168): in PAYLOAD
`IDX < LEN <= MAX_PAYLOAD`; in SKIP at least one pull is owed; while an operation is in progress no item is pending (R153,
R259); and `BUF` keeps its canonical form. -/
structure Inv (p : Params) (s : State) : Prop where
  payload : s.st = .payload → s.idx.toNat < s.len.toNat ∧ s.len.toNat ≤ p.maxPayload
  skip : s.st = .skip → 1 ≤ s.rem.toNat
  busy : s.st ≠ .idle → s.item = none
  buf : s.buf.wf = true

/-- At rest between two operations on a source that answers every pull: IDLE, no abandoned pull, the source not silent. -/
structure Ready (s : State) : Prop where
  idle : s.st = .idle
  fresh : s.stale = 0
  answering : s.srcSilent = false

/-- The source elements that carry the bytes of a sequence. -/
def byteAnswers (bytes : List Byte) : List Answer := bytes.map Answer.byte

/-- A pull is answered with an element, not with END (R56). -/
def Answer.isElement : Answer → Bool
  | .byte _ => true
  | .err _ => true
  | .fin => false

/-- The items of the next `n` operations, up to a step that delivers none. -/
def items : Nat → State → List Item
  | 0, _ => []
  | n + 1, s =>
    match step s with
    | .next t =>
      match t.item with
      | some i => i :: items n t
      | none => []
    | .fault _ => []
    | .refused _ => []

/-- The encodings of a list of packets, one behind the other; `none` if one of them cannot be encoded (R200, R203). -/
def encodeAll : List Packet → Option (List Byte)
  | [] => some []
  | p :: ps =>
    match encEncode p, encodeAll ps with
    | some out, some outs => some (out ++ outs)
    | _, _ => none

/-- The source answers a pull END, and under `SRC_FUSED` every later pull (R36). -/
def State.AtEnd (p : Params) (s : State) : Prop := ∃ rest, s.pullAnswer p = some (.fin, rest)

/-- What can happen next to a decoder bound to a source that keeps its contract (R35, R36, R263): `next`, `rst`, the source's answer to a
pull, an operation run to its item or to an unanswered pull, and further answers the source comes to give. -/
inductive Move (p : Params) : State → State → Prop where
  | next (s t : State) (h : decStep p s .cmdNext = .next t) : Move p s t
  | rst (s t : State) (h : decStep p s .rst = .next t) : Move p s t
  | pull (s t : State) (h : pullStep p s = .next t) : Move p s t
  | op (s t : State) (h : decNext p s = .next t) : Move p s t
  | offer (s : State) (as : List Answer) : Move p s (s.offer p as)

/-- Any number of moves. -/
inductive Moves (p : Params) (s : State) : State → Prop where
  | none : Moves p s s
  | more (t u : State) (h : Moves p s t) (m : Move p t u) : Moves p s u

/-- Any number of answered pulls, one transition each. -/
inductive Pulled (p : Params) (s : State) : State → Prop where
  | none : Pulled p s s
  | more (t u : State) (h : Pulled p s t) (m : pullStep p t = .next u) : Pulled p s u

/-- The outcomes of an operation from `s` to `t` that met END (R184): END itself, `UnexpectedTermination`, or an error whose skip was
answered END, a pull that `POS` does not count (R29, R170). -/
def EndMet (s t : State) : Prop :=
  t.item = some .endOfStream ∨ t.item = some (.error .unexpectedTermination) ∨
  ((t.item = some (.error .illegalSize) ∨ ∃ e, t.item = some (.error (.transport e))) ∧ t.pos + s.pulls < s.pos + t.pulls)

/-- A state the hardware can come to: from reset or a new binding, by any moves. -/
inductive Reachable (p : Params) : State → Prop where
  | bound (as : List Answer) (silent : Bool) : Reachable p (State.bound as silent)
  | move (s t : State) (h : Reachable p s) (m : Move p s t) : Reachable p t

end Sys2Proof.Machine
end

