-- ==== Sys2Proof/Certificates/Slice0/Obligations.lean ====
section
/-! DEFINITION. The statements about the DRAP packet codec, from the numbered rules of spec/. -/

open Sys2Proof Sys2Proof.Machine

/-! ## The wire format and the header codec -/

/-- R99: the header code is a bijection between pairs (type, length) and header words, and the map to kinds sends exactly the six
codes other than 1 and 2 to Unknown. -/
def Obligations.HeaderCodeIsBijection : Prop :=
  (∀ (i : Instr) (rest : List Byte), decode (encode i ++ rest) = .ok (i, rest)) ∧
  (∀ b0 b1 : Byte, encode (decodeHeader b0 b1) = [b0, b1]) ∧
  (∀ (t : U3) (l : U13), (instrOfType t l).typeCode = t ∧ (instrOfType t l).length = l) ∧
  (∀ i : Instr, instrOfType i.typeCode i.length = i) ∧
  (∀ i : Instr, i.kind = .unknown ↔ (i.typeCode ≠ 1 ∧ i.typeCode ≠ 2))

/-- R89: each header word is of exactly one row of the type-code table, the length bits being don't-care, and the instruction
decoded has that row's code and kind; R82: the length is `W[15:3]`, the type `W[2:0]`. -/
def Obligations.HeaderWordSelectsOneTableRow : Prop :=
  ∀ b0 b1 : Byte,
    (decodeHeader b0 b1).length.toNat = (headerWord b0 b1).toNat / 8 ∧
    (decodeHeader b0 b1).typeCode.toNat = (headerWord b0 b1).toNat % 8 ∧
    (headerWord b0 b1).toNat = 256 * b0.toNat + b1.toNat ∧
    (∃ r ∈ typeTable, headerWord b0 b1 &&& r.mask = r.pattern) ∧
    (∀ r ∈ typeTable, headerWord b0 b1 &&& r.mask = r.pattern →
      (decodeHeader b0 b1).typeCode = r.code ∧ (decodeHeader b0 b1).kind = r.kind)

/-- Words written out from R81's layout and R89's table decode to the instruction they stand for; among them the only
fully valid SpeakingStart word 0x0081 and the two ends of the valid Audio words, 0x0052 and 0xFFFA. -/
def Obligations.HandWrittenWordsDecode : Prop :=
  decode [0x00, 0x81] = .ok (.speakingStart 16, []) ∧
  decode [0x00, 0x52] = .ok (.audio 10, []) ∧
  decode [0xFF, 0xFA] = .ok (.audio 8191, []) ∧
  decode [0x00, 0x23] = .ok (.unknown3 4, []) ∧
  decode [0x12, 0x34] = .ok (.unknown4 582, []) ∧
  decode [0xAB, 0xCD] = .ok (.unknown5 5497, []) ∧
  decode [0x00, 0xF8] = .ok (.unknown0 31, []) ∧
  decode [0xFF, 0xFF] = .ok (.unknown7 8191, []) ∧
  decode [0x01, 0x06] = .ok (.unknown6 32, []) ∧
  decode [0x00] = .error .oneHeaderByteOnly

/-- R110: `HDR.UNPACK` is total, `length = 32 * b0 + floor(b1 / 8)`, the kind is by the low three bits of `b1`; it agrees with the
instruction decoder. -/
def Obligations.HdrUnpackIsLengthAndKind : Prop :=
  ∀ b0 b1 : Byte,
    (hdrUnpack b0 b1).1.toNat = 32 * b0.toNat + b1.toNat / 8 ∧
    (hdrUnpack b0 b1).2 = (if b1.toNat % 8 = 1 then .ss else if b1.toNat % 8 = 2 then .au else .unknown) ∧
    (decodeHeader b0 b1).length = (hdrUnpack b0 b1).1 ∧
    (decodeHeader b0 b1).kind = (hdrUnpack b0 b1).2

/-- R112 for any tag (R113): `HDR.PACK` fails exactly above 8191, and otherwise gives `length >> 5` and
`((length & 0x1F) << 3) | tag`, both within a byte. -/
def Obligations.HdrPackFormula : Prop :=
  ∀ (tag : U3) (length : Nat),
    (8191 < length → hdrPack tag length = none) ∧
    (length ≤ 8191 → ∃ b0 b1 : Byte, hdrPack tag length = some (b0, b1) ∧
      b0.toNat = length / 32 ∧ b1.toNat = (length % 32) * 8 + tag.toNat)

/-- R114 for every tag: unpacking a packed header gives the length and the kind of the tag; and the converse of R115. -/
def Obligations.HeaderPackUnpackSymmetry : Prop :=
  (∀ (tag : U3) (length : Nat), length ≤ 8191 → ∃ b0 b1 : Byte, hdrPack tag length = some (b0, b1) ∧
    hdrUnpack b0 b1 = (BitVec.ofNat 13 length, kindOf tag)) ∧
  (kindOf 1 = .ss ∧ kindOf 2 = .au ∧ ∀ tag : U3, tag ≠ 1 → tag ≠ 2 → kindOf tag = .unknown) ∧
  (∀ b0 b1 : Byte, hdrPack (headerType b1) (hdrUnpack b0 b1).1.toNat = some (b0, b1))

/-! ## The payload marshaller and the encoder -/

/-- R12: `be_N` and `bytes_N` are inverse, for every number of bytes, and the first byte is the most significant. -/
def Obligations.BigEndianInverse : Prop :=
  (∀ n v : Nat, (beBytes n v).length = n) ∧
  (∀ n v : Nat, v < 2 ^ (8 * n) → beNat (beBytes n v) = v) ∧
  (∀ s : List Byte, beNat s < 2 ^ (8 * s.length) ∧ beBytes s.length (beNat s) = s) ∧
  (∀ (b : Byte) (s : List Byte), beNat (b :: s) = b.toNat * 2 ^ (8 * s.length) + beNat s)

/-- R131: `SS.PARSE` fails exactly when `n != 16`; otherwise the two fields are the big-endian values of the two 8-byte halves. -/
def Obligations.SsParseFields : Prop :=
  ∀ buf : List Byte,
    (buf.length ≠ 16 → ssParse buf = none) ∧
    (buf.length = 16 → ∃ s t : U64, ssParse buf = some (s, t) ∧
      s.toNat = beNat (buf.take 8) ∧ t.toNat = beNat (buf.drop 8))

/-- R133 with the size of R132: `SS.PARSE` and `SS.SER` are inverse to each other, and `SS.SER` always gives 16 bytes. -/
def Obligations.SsParseSerInverse : Prop :=
  (∀ s t : U64, (ssSer s t).length = 16 ∧ ssParse (ssSer s t) = some (s, t)) ∧
  (∀ buf : List Byte, buf.length = 16 → ∃ s t : U64, ssParse buf = some (s, t) ∧ ssSer s t = buf)

/-- R134: `AU.PARSE` fails exactly when `n < 10`; otherwise snowflake, sequence, `data_len = n - 10` and the bytes from 10 on. -/
def Obligations.AuParseFields : Prop :=
  ∀ buf : List Byte,
    (buf.length < 10 → auParse buf = none) ∧
    (10 ≤ buf.length → ∃ (s : U64) (q : U16), auParse buf = some (s, q, buf.length - 10, buf.drop 10) ∧
      s.toNat = beNat (buf.take 8) ∧ q.toNat = beNat ((buf.drop 8).take 2))

/-- R136 with the size of R135: `AU.PARSE` and `AU.SER` are inverse to each other, and `AU.SER` gives `10 + data_len` bytes. -/
def Obligations.AuParseSerInverse : Prop :=
  (∀ (s : U64) (q : U16) (d : List Byte), (auSer s q d).length = 10 + d.length ∧
    auParse (auSer s q d) = some (s, q, d.length, d)) ∧
  (∀ buf : List Byte, 10 ≤ buf.length → ∃ (s : U64) (q : U16) (m : Nat) (d : List Byte),
    auParse buf = some (s, q, m, d) ∧ auSer s q d = buf)

/-- R200 to R204: SpeakingStart always encodes, to 18 bytes beginning `00 81`; Audio fails exactly above 8181 data bytes and
otherwise gives `12 + data_len` bytes, the header of type 2 and length `10 + data_len` and the serialised payload. -/
def Obligations.EncodeOutcome : Prop :=
  (∀ s t : U64, encEncode (.speakingStart s t) = some (0x00 :: 0x81 :: ssSer s t) ∧
    (0x00 :: 0x81 :: ssSer s t).length = 18) ∧
  (∀ (s : U64) (q : U16) (d : List Byte),
    (8181 < d.length → encEncode (.audio s q d) = none) ∧
    (d.length ≤ 8181 →
      encEncode (.audio s q d) = some (encode (.audio (BitVec.ofNat 13 (10 + d.length))) ++ auSer s q d) ∧
      (encode (.audio (BitVec.ofNat 13 (10 + d.length))) ++ auSer s q d).length = 12 + d.length))

/-- R206: `ENC.ENCODE` is injective where it succeeds, and its outputs are exactly the well-formed packets of the wire format. -/
def Obligations.EncoderOutputsAreTheWellFormedPackets : Prop :=
  (∀ (p q : Packet) (out : List Byte), encEncode p = some out → encEncode q = some out → p = q) ∧
  (∀ (b0 b1 : Byte) (payload : List Byte),
    (∃ p, encEncode p = some (b0 :: b1 :: payload)) ↔
      (payload.length = (decodeHeader b0 b1).length.toNat ∧
        (((decodeHeader b0 b1).typeCode = 1 ∧ (decodeHeader b0 b1).length = 16) ∨
          ((decodeHeader b0 b1).typeCode = 2 ∧ 10 ≤ (decodeHeader b0 b1).length.toNat))))

/-- R33, R205, R254, R264: every operation but `DEC.NEXT` can be invoked in any state, in the middle of a decode too, gives a result
that depends on its operands alone, and leaves the whole state as it was. -/
def Obligations.StatelessOperationsKeepState : Prop :=
  ∀ op : Op, op ≠ .decNext → ∃ r, ∀ s : State, operate op s = .next (s, r)

/-- R93 to R96: the codes of `item_kind` with the fields valid for each, of `kind` (code 3 never produced), of `DEC.ST` (codes 5 to 7 never
occurring), of `DEC.PEND`, and of `src_rsp_kind` with code 3 refused. -/
def Obligations.PortCodes : Prop :=
  (Item.endOfStream.code = 0 ∧ (∀ s t, (Item.packet (.speakingStart s t)).code = 1) ∧
    (∀ s q d, (Item.packet (.audio s q d)).code = 2) ∧ (Item.error .unexpectedTermination).code = 3 ∧
    (Item.error .illegalSize).code = 4 ∧ (Item.error .illegalSizedObject).code = 5 ∧
    (Item.error .unknownKind).code = 6 ∧ (∀ e, (Item.error (.transport e)).code = 7)) ∧
  (∀ i : Item,
    (i.snowflake ≠ none ↔ i.code = 1 ∨ i.code = 2) ∧ (i.timestamp ≠ none ↔ i.code = 1) ∧ (i.sequence ≠ none ↔ i.code = 2) ∧
    (i.dataLen ≠ none ↔ i.code = 2) ∧ (i.data ≠ none ↔ i.code = 2) ∧ (i.errVal ≠ none ↔ i.code = 7)) ∧
  (kindCode .unknown = 0 ∧ kindCode .ss = 1 ∧ kindCode .au = 2 ∧ ∀ k, kindCode k ≠ 3) ∧
  (DecSt.idle.code = 0 ∧ DecSt.hdr0.code = 1 ∧ DecSt.hdr1.code = 2 ∧ DecSt.payload.code = 3 ∧ DecSt.skip.code = 4 ∧
    ∀ d : DecSt, d.code.toNat < 5) ∧
  (Pend.illegalSize.code = 0 ∧ Pend.transport.code = 1) ∧
  (∀ (b : Byte) (e : ErrVal), answerOfPort 0 b e = some (.byte b) ∧ answerOfPort 1 b e = some (.err e) ∧
    answerOfPort 2 b e = some .fin ∧ answerOfPort 3 b e = none ∧
    (Answer.byte b).code = 0 ∧ (Answer.err e).code = 1 ∧ Answer.fin.code = 2)

/-! ## The transitions

A next state written out whole holds the model's own ghost `pulls` too, one more for each answer (log 16). Where it is IDLE, that
every register and `BUF` keeps its value is the model's choice (log 6): the spec leaves them open there (R172, U11, U12). -/

/-- R152, R153: `next` is accepted in IDLE, with no other register written, and has no transition in any other state. -/
def Obligations.NextAcceptedOnlyInIdle : Prop :=
  ∀ (p : Params) (s : State),
    (s.st = .idle → ∃ t, decStep p s .cmdNext = .next t ∧ t.st = .hdr0 ∧ t.srcReq = true ∧ t.b0 = s.b0 ∧
      t.len = s.len ∧ t.kind = s.kind ∧ t.idx = s.idx ∧ t.rem = s.rem ∧ t.pend = s.pend ∧ t.perr = s.perr ∧
      t.buf = s.buf ∧ t.pos = s.pos ∧ t.src = s.src) ∧
    (s.st ≠ .idle → ∀ t, decStep p s .cmdNext ≠ .next t)

/-- R154, R155, R156: the three answers in HDR0, each with the whole next state. That the registers and `BUF` keep their values in
IDLE is the model's choice (log 6), and so is `pulls` (log 16). -/
def Obligations.HeaderByteZeroTransitions : Prop :=
  ∀ (p : Params) (s : State), s.st = .hdr0 → s.stale = 0 →
    decStep p s (.rsp .fin) = .next { s with st := .idle, item := some .endOfStream, pulls := s.pulls + 1 } ∧
    (∀ b, decStep p s (.rsp (.byte b)) = .next { s with st := .hdr1, b0 := b, pos := s.pos + 1, pulls := s.pulls + 1 }) ∧
    (∀ e, decStep p s (.rsp (.err e)) =
      .next { s with st := .idle, item := some (.error (.transport e)), pos := s.pos + 1, pulls := s.pulls + 1 })

/-- R157, R159: END and an error in HDR1, each with the whole next state. That the registers and `BUF` keep their values in IDLE is the
model's choice (log 6), and so is `pulls` (log 16). -/
def Obligations.HeaderByteOneFailures : Prop :=
  ∀ (p : Params) (s : State), s.st = .hdr1 → s.stale = 0 →
    decStep p s (.rsp .fin) =
      .next { s with st := .idle, item := some (.error .unexpectedTermination), pulls := s.pulls + 1 } ∧
    (∀ e, decStep p s (.rsp (.err e)) =
      .next { s with st := .idle, item := some (.error (.transport e)), pos := s.pos + 1, pulls := s.pulls + 1 })

/-- R158, R160 to R163: the header complete, the ceiling test first, then the empty payload, then the payload; each branch with the whole
next state. That, after the empty payload, the registers and `BUF` keep their values in IDLE is the model's choice (log 6), and so is
`pulls` (log 16). -/
def Obligations.HeaderCompleteBranches : Prop :=
  ∀ (p : Params) (s : State) (b : Byte) (l : U13) (k : Kind), s.st = .hdr1 → s.stale = 0 → hdrUnpack s.b0 b = (l, k) →
    (p.maxPayload < l.toNat → decStep p s (.rsp (.byte b)) =
      .next { s with st := .skip, len := l, kind := k, idx := 0, rem := l, pend := .illegalSize,
                     pos := s.pos + 1, pulls := s.pulls + 1 }) ∧
    (l.toNat ≤ p.maxPayload → l = 0 → decStep p s (.rsp (.byte b)) =
      .next { s with st := .idle, len := l, kind := k, idx := 0, pos := s.pos + 1, pulls := s.pulls + 1,
                     item := some (.error (if k = .unknown then .unknownKind else .illegalSizedObject)) }) ∧
    (l.toNat ≤ p.maxPayload → l ≠ 0 → decStep p s (.rsp (.byte b)) =
      .next { s with st := .payload, len := l, kind := k, idx := 0, pos := s.pos + 1, pulls := s.pulls + 1 })

/-- R164, R165, R166: the three answers in PAYLOAD under its invariant `IDX < LEN`, each with the whole next state. That,
where that is IDLE, the registers and `BUF` keep their values is the model's choice (log 6), and so is `pulls` (log 16). -/
def Obligations.PayloadTransitions : Prop :=
  ∀ (p : Params) (s : State), s.st = .payload → s.stale = 0 → s.idx.toNat < s.len.toNat →
    (∀ b, s.idx.toNat + 1 ≠ s.len.toNat → decStep p s (.rsp (.byte b)) =
      .next { s with buf := s.buf.write s.idx.toNat b, idx := s.idx + 1, pos := s.pos + 1, pulls := s.pulls + 1 }) ∧
    (∀ b, s.idx.toNat + 1 = s.len.toNat → decStep p s (.rsp (.byte b)) =
      .next { s with buf := s.buf.write s.idx.toNat b, idx := s.idx + 1, pos := s.pos + 1, pulls := s.pulls + 1,
                     st := .idle,
                     item := some (itemOf s.kind ((s.buf.write s.idx.toNat b).readBytes 0 s.len.toNat)) }) ∧
    decStep p s (.rsp .fin) =
      .next { s with st := .idle, item := some (.error .unexpectedTermination), pulls := s.pulls + 1 } ∧
    (∀ e, s.idx.toNat + 1 = s.len.toNat → decStep p s (.rsp (.err e)) =
      .next { s with st := .idle, item := some (.error (.transport e)), rem := 0, pend := .transport, perr := e,
                     pos := s.pos + 1, pulls := s.pulls + 1 }) ∧
    (∀ e, s.idx.toNat + 1 ≠ s.len.toNat → ∃ owed : U13, owed.toNat = s.len.toNat - s.idx.toNat - 1 ∧
      decStep p s (.rsp (.err e)) =
        .next { s with st := .skip, rem := owed, pend := .transport, perr := e, pos := s.pos + 1, pulls := s.pulls + 1 })

/-- R169, R170, R171: the answers in SKIP, a byte and an error alike, each with the whole next state; the report is the latched error.
That, where that is IDLE, the registers and `BUF` keep their values is the model's choice (log 6), and so is `pulls` (log 16). -/
def Obligations.SkipTransitions : Prop :=
  ∀ (p : Params) (s : State) (report : DecError), s.st = .skip → s.stale = 0 → 1 ≤ s.rem.toNat →
    (report = match s.pend with | .illegalSize => DecError.illegalSize | .transport => DecError.transport s.perr) →
    (∀ a : Answer, a.isElement = true → s.rem = 1 → decStep p s (.rsp a) =
      .next { s with st := .idle, item := some (.error report), rem := 0, pos := s.pos + 1, pulls := s.pulls + 1 }) ∧
    (∀ a : Answer, a.isElement = true → s.rem ≠ 1 → decStep p s (.rsp a) =
      .next { s with rem := s.rem - 1, pos := s.pos + 1, pulls := s.pulls + 1 }) ∧
    decStep p s (.rsp .fin) =
      .next { s with st := .idle, item := some (.error report), pulls := s.pulls + 1 }

/-- R151, R172: under the invariant `next` has a transition exactly in IDLE and an answer exactly when a pull is outstanding; after a
transition on an answer an item stands on the port exactly when the state is IDLE. -/
def Obligations.TransitionsTotalOnEnabledEvents : Prop :=
  ∀ (p : Params) (s : State), Inv p s → s.stale = 0 →
    ((∃ t, decStep p s .cmdNext = .next t) ↔ s.st = .idle) ∧
    (∀ a, (∃ t, decStep p s (.rsp a) = .next t) ↔ s.srcReq = true) ∧
    (∀ a t, decStep p s (.rsp a) = .next t → (t.item ≠ none ↔ t.st = .idle))

/-- R250, R251, R253 and R40: `rst` puts the decoder in IDLE with no item pending and no pull outstanding, in any state, without touching
the source or `POS`; the answer of the pull it abandons, if it later arrives, changes nothing but the counts of consumed elements. How a later
answer is told from another is the model's, the field `stale` (log 8). -/
def Obligations.ResetAbandonsTheOperation : Prop :=
  ∀ (p : Params) (s : State), ∃ t, decStep p s .rst = .next t ∧
    t.st = .idle ∧ t.item = none ∧ t.srcReq = false ∧ t.src = s.src ∧ t.pos = s.pos ∧
    (s.stale = 0 → s.srcReq = false → t.stale = 0) ∧
    (s.stale = 0 → s.srcReq = true → ∀ a, ∃ u, decStep p t (.rsp a) = .next u ∧
      u = { t with stale := 0, pos := u.pos, pulls := u.pulls } ∧
      u.pos = t.pos + (if a.isElement then 1 else 0))

/-! ## The invariant -/

/-- R40: the values the spec gives for the state after reset; the registers it leaves unspecified are not spoken of (log 4, log 5). -/
def Obligations.ResetState : Prop :=
  State.reset.st = .idle ∧ State.reset.item = none ∧ State.reset.srcReq = false ∧ State.reset.stale = 0 ∧
  State.reset.pos = 0

/-- The state after reset satisfies the decoder's invariant. -/
def Obligations.ResetSatisfiesInvariant : Prop := Inv Config.hardware State.reset

/-- Every transition on an event keeps the invariant, for every ceiling. -/
def Obligations.TransitionsKeepInvariant : Prop :=
  ∀ (p : Params) (s t : State) (e : Event), Inv p s → decStep p s e = .next t → Inv p t

/-- Every step keeps the invariant: `IDX < LEN` in PAYLOAD, `REM >= 1` in SKIP, no item pending during an operation, `BUF` canonical. -/
def Obligations.StepKeepsInvariant : Prop :=
  ∀ s t : State, Inv Config.hardware s → step s = .next t → Inv Config.hardware t

/-- Under the invariant a step answers a next state, unless a pull is outstanding and the source answers nothing (R185); no error of
the stream stops the machine (R219). That a state with no step is the fault `pullUnanswered` is the model's choice (log 13). -/
def Obligations.StepStopsOnlyOnSilence : Prop :=
  ∀ s : State, Inv Config.hardware s →
    (blocked s = false → ∃ t, step s = .next t) ∧ (blocked s = true → step s = .fault .pullUnanswered)

/-- Every reachable state satisfies the invariant, for every ceiling up to 8191; where no length is above the ceiling, as on this
hardware, SKIP is occupied only with a transport error pending (D3's note), and no item is ever `IllegalSize` (R213). -/
def Obligations.ReachableStatesSatisfyInvariant : Prop :=
  (∀ (p : Params) (s : State), p.wellFormed = true → Reachable p s → Inv p s) ∧
  (∀ (p : Params) (s : State), 8191 ≤ p.maxPayload → Reachable p s →
    (s.st = .skip → s.pend = .transport) ∧ s.item ≠ some (.error .illegalSize))

/-- R36, R263: under `SRC_FUSED`, a source that answers END answers END to the next pull, and to every pull after any moves, whatever answers
it is offered and however often the decoder is reset; and nothing more is consumed. That the source is the list `src` and the flag `srcSilent` is
the model's choice (log 2). -/
def Obligations.OnceEndAlwaysEnd : Prop :=
  ∀ (p : Params) (s t : State), p.srcFused = true →
    (∀ rest, s.pullAnswer p = some (.fin, rest) → (s.withSrc rest).AtEnd p) ∧
    (s.AtEnd p → Moves p s t → t.AtEnd p ∧ t.pos = s.pos)

/-! ## The instructions -/

/-- R174 on a complete payload: SPEAKING_START consumes exactly `length` bytes into `BUF[0 .. length-1]` and delivers the packet when
`length` is 16 and `IllegalSizedObject` otherwise; the whole next state, hence everything it leaves unchanged. That the registers and `BUF`
keep their values in IDLE is the model's choice (log 6), and so is `pulls` (log 16). -/
def Obligations.SpeakingStartOnCompletePayload : Prop :=
  ∀ (l : U13) (s : State) (bytes : List Byte) (rest : List Answer),
    s.src = byteAnswers bytes ++ rest → bytes.length = l.toNat →
    ∃ i : Item, exec (.speakingStart l) s = .next { s with
        st := .idle, len := l, kind := .ss, idx := l, buf := s.buf.writeBytes 0 bytes, item := some i,
        pos := s.pos + l.toNat, pulls := s.pulls + l.toNat, src := rest } ∧
      (l ≠ 16 → i = .error .illegalSizedObject) ∧
      (l = 16 → ∃ f t : U64, f.toNat = beNat (bytes.take 8) ∧ t.toNat = beNat (bytes.drop 8) ∧
        i = .packet (.speakingStart f t))

/-- R175 on a complete payload: AUDIO consumes exactly `length` bytes into `BUF[0 .. length-1]` and delivers the packet when `length` is at
least 10 and `IllegalSizedObject` otherwise; the whole next state. That the registers and `BUF` keep their values in IDLE is the model's
choice (log 6), and so is `pulls` (log 16). -/
def Obligations.AudioOnCompletePayload : Prop :=
  ∀ (l : U13) (s : State) (bytes : List Byte) (rest : List Answer),
    s.src = byteAnswers bytes ++ rest → bytes.length = l.toNat →
    ∃ i : Item, exec (.audio l) s = .next { s with
        st := .idle, len := l, kind := .au, idx := l, buf := s.buf.writeBytes 0 bytes, item := some i,
        pos := s.pos + l.toNat, pulls := s.pulls + l.toNat, src := rest } ∧
      (l.toNat < 10 → i = .error .illegalSizedObject) ∧
      (10 ≤ l.toNat → ∃ (f : U64) (q : U16), f.toNat = beNat (bytes.take 8) ∧ q.toNat = beNat ((bytes.drop 8).take 2) ∧
        i = .packet (.audio f q (bytes.drop 10)))

/-- R176 on a complete payload: UNKNOWN_0 and UNKNOWN_3 to UNKNOWN_7 consume exactly `length` bytes and deliver `UnknownKind`, all six
alike; the whole next state. That the registers and `BUF` keep their values in IDLE is the model's choice (log 6), and so is `pulls`
(log 16). -/
def Obligations.UnknownOnCompletePayload : Prop :=
  ∀ (l : U13) (s : State) (bytes : List Byte) (rest : List Answer) (i : Instr),
    i = .unknown0 l ∨ i = .unknown3 l ∨ i = .unknown4 l ∨ i = .unknown5 l ∨ i = .unknown6 l ∨ i = .unknown7 l →
    s.src = byteAnswers bytes ++ rest → bytes.length = l.toNat →
    exec i s = .next { s with
        st := .idle, len := l, kind := .unknown, idx := l, buf := s.buf.writeBytes 0 bytes,
        item := some (.error .unknownKind), pos := s.pos + l.toNat, pulls := s.pulls + l.toNat, src := rest }

/-- The bytes of `BUF` after a complete payload: those collected at 0 .. `length`-1, the old ones at every other index: the
bytes that R52 and R164 write. That `BUF` still reads so in IDLE is the model's choice (log 6): the spec gives it no value there (U11, U12). -/
def Obligations.BufferAfterCompletePayload : Prop :=
  ∀ (i : Instr) (s t : State) (bytes : List Byte) (rest : List Answer),
    s.src = byteAnswers bytes ++ rest → bytes.length = i.length.toNat → exec i s = .next t →
    (∀ k, ∀ h : k < bytes.length, t.buf.read k = bytes[k]) ∧
    (∀ a, i.length.toNat ≤ a → t.buf.read a = s.buf.read a)

/-- Every instruction answers a next state in every state of the machine, and on a source that answers every pull it ends in IDLE with an
item (R150). -/
def Obligations.InstructionsAlwaysComplete : Prop :=
  ∀ (i : Instr) (s : State), ∃ t, exec i s = .next t ∧
    (s.srcSilent = false → t.st = .idle ∧ t.item ≠ none)

/-- R165, R212: the source exhausted before `length` payload bytes gives `UnexpectedTermination` and never a packet, whatever the kind and
however many bytes were collected, as the spec resolves its source's contradiction (log 21); the whole next state. That the registers and `BUF`
keep their values in IDLE is the model's choice (log 6), and so is `pulls` (log 16). -/
def Obligations.ExhaustedPayloadIsUnexpectedTermination : Prop :=
  ∀ (i : Instr) (s : State) (bytes : List Byte) (after : List Answer),
    s.src = byteAnswers bytes ++ after → bytes.length < i.length.toNat →
    (after = [] ∧ s.srcSilent = false) ∨ (∃ more, after = .fin :: more) →
    exec i s = .next { s with
        st := .idle, len := i.length, kind := i.kind, idx := BitVec.ofNat 13 bytes.length,
        buf := s.buf.writeBytes 0 bytes, item := some (.error .unexpectedTermination),
        pos := s.pos + bytes.length, pulls := s.pulls + bytes.length + 1, src := after }

/-- R166 with R169 and R171: an error at payload byte `k` and then all `length - k - 1` owed elements, errors among them: exactly the
declared payload is consumed and the first error is reported, whatever the kind (R221, R225); the whole next state. That the registers and
`BUF` keep their values in IDLE is the model's choice (log 6), and so is `pulls` (log 16). -/
def Obligations.PayloadErrorSkipsAndReportsFirstError : Prop :=
  ∀ (i : Instr) (s : State) (bytes : List Byte) (e : ErrVal) (owed rest : List Answer),
    s.src = byteAnswers bytes ++ .err e :: (owed ++ rest) → (∀ a ∈ owed, a.isElement = true) →
    bytes.length + 1 + owed.length = i.length.toNat →
    exec i s = .next { s with
        st := .idle, len := i.length, kind := i.kind, idx := BitVec.ofNat 13 bytes.length,
        buf := s.buf.writeBytes 0 bytes, rem := 0, pend := .transport, perr := e,
        item := some (.error (.transport e)),
        pos := s.pos + i.length.toNat, pulls := s.pulls + i.length.toNat, src := rest }

/-- R170, R226: the source exhausted during the skip after a payload error: the latched transport error is reported, not
`UnexpectedTermination`. -/
def Obligations.ExhaustedSkipReportsLatchedError : Prop :=
  ∀ (i : Instr) (s : State) (bytes : List Byte) (e : ErrVal) (owed after : List Answer),
    s.src = byteAnswers bytes ++ .err e :: (owed ++ after) → (∀ a ∈ owed, a.isElement = true) →
    (after = [] ∧ s.srcSilent = false) ∨ (∃ more, after = .fin :: more) →
    bytes.length + 1 + owed.length < i.length.toNat →
    ∃ t, exec i s = .next t ∧ t.st = .idle ∧ t.item = some (.error (.transport e)) ∧ t.src = after ∧
      t.pos = s.pos + bytes.length + 1 + owed.length ∧
      t.pulls = s.pulls + bytes.length + 1 + owed.length + 1

/-- The frame of every instruction whenever it answers a next state: `B0`, the abandoned pulls and the source's silence are unchanged;
`LEN` and `KIND` are the header's; `BUF` is unchanged at every index from `length` on; `REM`, `PEND` and `PERR` change only
when a transport error is met (the item says so, or the skip still waits); the elements consumed stood at the front of the source, are
at most `length`, and `POS` counts them. Where the next state is IDLE, what it says of the registers and `BUF` is the model's
choice (log 6): the spec leaves them open there (U11, U12). -/
def Obligations.InstructionFrame : Prop :=
  ∀ (i : Instr) (s t : State), exec i s = .next t →
    t.b0 = s.b0 ∧ t.stale = s.stale ∧ t.srcSilent = s.srcSilent ∧ t.len = i.length ∧ t.kind = i.kind ∧
    (∀ a, i.length.toNat ≤ a → t.buf.read a = s.buf.read a) ∧
    (t.st ≠ .skip → (∀ e, t.item ≠ some (.error (.transport e))) →
      t.rem = s.rem ∧ t.pend = s.pend ∧ t.perr = s.perr) ∧
    (∃ consumed, s.src = consumed ++ t.src ∧ (∀ a ∈ consumed, a.isElement = true) ∧
      consumed.length ≤ i.length.toNat ∧ t.pos = s.pos + consumed.length)

/-- R163, R169, R171 for a ceiling below the declared length: exactly `length` elements are skipped, none is stored in `BUF`, and
`IllegalSize` is reported whatever the kind (R160, R213); the whole next state. That the registers and `BUF` keep their values in IDLE
is the model's choice (log 6), and so is `pulls` (log 16). -/
def Obligations.OversizedPacketIsSkipped : Prop :=
  ∀ (p : Params) (l : U13) (k : Kind) (s : State) (owed rest : List Answer),
    p.maxPayload < l.toNat → s.src = owed ++ rest → (∀ a ∈ owed, a.isElement = true) → owed.length = l.toNat →
    execHeader p l k s = .next { s with
        st := .idle, len := l, kind := k, idx := 0, rem := 0, pend := .illegalSize,
        item := some (.error .illegalSize), pos := s.pos + l.toNat, pulls := s.pulls + l.toNat, src := rest }

/-- R8, R213: on this hardware no step delivers `IllegalSize`, from rest or resuming an operation that waits, with abandoned pulls or without,
and no transition puts it on the item port; for SKIP is never entered with it pending, which the premise says of the state before and the
conclusion of the state after. -/
def Obligations.HardwareNeverReportsIllegalSize : Prop :=
  ∀ s t : State, Inv Config.hardware s → (s.st = .skip → s.pend = .transport) →
    (step s = .next t → t.item ≠ some (.error .illegalSize) ∧ (t.st = .skip → t.pend = .transport)) ∧
    (∀ e, decStep Config.hardware s e = .next t → s.item ≠ some (.error .illegalSize) →
      t.item ≠ some (.error .illegalSize) ∧ (t.st = .skip → t.pend = .transport))

/-! ## The whole operation -/

/-- A step from rest on a complete header is the decoded instruction's `exec`, at the state in which `next` was accepted (R152) and the
two header bytes were pulled (R155, R158). That accepting `next` empties the item port is the model's choice (log 7). -/
def Obligations.StepRunsDecodedInstruction : Prop :=
  ∀ (s : State) (b0 b1 : Byte) (rest : List Answer) (i : Instr),
    s.st = .idle → s.stale = 0 → s.src = .byte b0 :: .byte b1 :: rest → decode [b0, b1] = .ok (i, []) →
    step s = exec i { s with
        st := .hdr1, b0 := b0, item := none, src := rest, pos := s.pos + 2, pulls := s.pulls + 2 }

/-- R177's derivation: a step, which goes through the instructions, is the run of the transitions from `next` to the item, in every state. -/
def Obligations.StepIsTransitionRun : Prop :=
  ∀ s : State, step s = decNext Config.hardware s

/-- R151, R177: an operation is `next`, where the decoder is in IDLE, and then single pulls, each a transition on the source's own answer, up
to its item or to a pull the source does not answer (R185). -/
def Obligations.OperationIsNextThenPulls : Prop :=
  ∀ (p : Params) (s t : State), decNext p s = .next t →
    ∃ c, ((s.st = .idle ∧ decStep p s .cmdNext = .next c) ∨ (s.st ≠ .idle ∧ c = s)) ∧ Pulled p c t ∧
      (t.st = .idle ∨ t.pullAnswer p = none)

/-- R177, R178: from rest, on a source that answers every pull, running the transitions for any ceiling delivers the item of the
sequential procedure and leaves the source where the procedure leaves it; so does a step, at the hardware's ceiling. -/
def Obligations.OperationIsSequentialProcedure : Prop :=
  (∀ (p : Params) (s : State), p.wellFormed = true → Ready s →
    ∃ t, decNext p s = .next t ∧ Ready t ∧ t.item = some (decodeNext p s.src).1 ∧ t.src = (decodeNext p s.src).2) ∧
  (∀ s : State, Ready s →
    ∃ t, step s = .next t ∧ Ready t ∧ t.item = some (decodeNext Config.hardware s.src).1 ∧
      t.src = (decodeNext Config.hardware s.src).2)

/-- R182: with the header pulled as two bytes and all `length` payload elements there, errors among them or not, the operation consumes
exactly `2 + length` elements, makes as many pulls, and delivers an item that is neither the end nor `UnexpectedTermination`; the next
operation begins at the element behind the declared payload. -/
def Obligations.Resynchronisation : Prop :=
  ∀ (s : State) (b0 b1 : Byte) (els rest : List Answer),
    Ready s → s.src = .byte b0 :: .byte b1 :: (els ++ rest) → (∀ a ∈ els, a.isElement = true) →
    els.length = (decodeHeader b0 b1).length.toNat →
    ∃ t i, step s = .next t ∧ Ready t ∧ t.item = some i ∧ i ≠ .endOfStream ∧ i ≠ .error .unexpectedTermination ∧
      t.src = rest ∧ t.pos = s.pos + 2 + els.length ∧ t.pulls = s.pulls + 2 + els.length

/-- R180, R267: an operation from rest makes at least 1 and at most 8193 pulls, and at most `2 + length` once its header is two bytes; `POS`
advances by the number of elements taken from the front of the source, by no more than the pulls (R29, R181). -/
def Obligations.PullBounds : Prop :=
  ∀ s t : State, Ready s → step s = .next t →
    s.pulls + 1 ≤ t.pulls ∧ t.pulls ≤ s.pulls + 8193 ∧
    (∀ b0 b1 rest, s.src = .byte b0 :: .byte b1 :: rest →
      t.pulls ≤ s.pulls + 2 + (decodeHeader b0 b1).length.toNat) ∧
    (∃ consumed, s.src = consumed ++ t.src ∧ (∀ a ∈ consumed, a.isElement = true) ∧
      t.pos = s.pos + consumed.length ∧ t.pos + s.pulls ≤ t.pulls + s.pos)

/-- R217, R154: END is delivered exactly when the very first pull of the operation is answered END, and then nothing is consumed. -/
def Obligations.CleanEndOnlyAtAPacketBoundary : Prop :=
  ∀ s t : State, Ready s → step s = .next t →
    (t.item = some .endOfStream ↔ (s.src = [] ∨ ∃ more, s.src = .fin :: more)) ∧
    (t.item = some .endOfStream → t.pos = s.pos ∧ t.src = s.src ∧ t.pulls = s.pulls + 1)

/-- R156, R159, R261: a transport error in a header byte is reported at once, without a skip: one or two elements are consumed, a first
header byte is lost, and the next operation begins at the element behind the error. That the registers and `BUF` keep their values in IDLE is
the model's choice (log 6), and so is `pulls` (log 16). -/
def Obligations.HeaderErrorLosesSynchronisation : Prop :=
  ∀ (s : State) (e : ErrVal) (rest : List Answer), s.st = .idle → s.stale = 0 →
    (s.src = .err e :: rest →
      step s = .next { s with item := some (.error (.transport e)), pos := s.pos + 1, pulls := s.pulls + 1, src := rest }) ∧
    (∀ b, s.src = .byte b :: .err e :: rest →
      step s = .next { s with b0 := b, item := some (.error (.transport e)), pos := s.pos + 2, pulls := s.pulls + 2,
                              src := rest })

/-- R180: whenever an operation delivers a packet, the elements it consumed are exactly the bytes of that packet's encoding, no byte
more and no byte less. -/
def Obligations.DecodedPacketConsumedExactlyItsEncoding : Prop :=
  ∀ (s t : State) (p : Packet), Ready s → step s = .next t → t.item = some (.packet p) →
    ∃ out, encEncode p = some out ∧ s.src = byteAnswers out ++ t.src ∧ t.pos = s.pos + out.length ∧
      t.pulls = s.pulls + out.length

/-- R184, R36: under `SRC_FUSED`, after END, after `UnexpectedTermination`, and after an error whose skip met END (one pull more was answered
than elements consumed), every later operation delivers END and consumes nothing, whatever the source is offered meanwhile. The first clause is
one operation, at rest before and after it, so that it can be repeated; the second is all later steps of the hardware. -/
def Obligations.EndIsTerminal : Prop :=
  (∀ (p : Params) (s t : State), p.srcFused = true → Ready s → decNext p s = .next t → EndMet s t →
    Ready t ∧ ∀ as, ∃ u, decNext p (t.offer p as) = .next u ∧ Ready u ∧ u.item = some .endOfStream ∧ EndMet t u ∧
      u.pos = t.pos ∧ u.src = t.src) ∧
  (∀ s t : State, Ready s → step s = .next t → EndMet s t →
    Ready t ∧ ∀ n, items n t = List.replicate n .endOfStream)

/-- R20, R41: what an operation delivers and consumes depends on no register and no byte of `BUF`: two decoders at rest with the same
source to come deliver the same item, leave the same source and advance alike. -/
def Obligations.ItemsIndependentOfRegisters : Prop :=
  ∀ s s' t t' : State, Ready s → Ready s' → s.src = s'.src → step s = .next t → step s' = .next t' →
    t.item = t'.item ∧ t.src = t'.src ∧ t.pos + s'.pos = t'.pos + s.pos ∧ t.pulls + s'.pulls = t'.pulls + s.pulls

/-- R183: the encodings of any list of packets, one behind the other, decode to exactly those packets in order and then to END. -/
def Obligations.EncodeDecodeRoundTrip : Prop :=
  ∀ (ps : List Packet) (bytes : List Byte) (s : State),
    encodeAll ps = some bytes → Ready s → s.src = byteAnswers bytes →
    items (ps.length + 1) s = ps.map Item.packet ++ [.endOfStream]

/-- R185: an operation whose pull is not answered waits where it is and loses nothing: when further answers come, going on gives what the
operation would have given had they been there from the start. The answers to come and the source's silence are the model's fields (log 2). -/
def Obligations.WaitingLosesNothing : Prop :=
  ∀ (s t : State) (more : List Answer), s.stale = 0 → s.st = .idle →
    step { s with srcSilent := true } = .next t → t.st ≠ .idle →
    step { t with src := more, srcSilent := false } = step { s with src := s.src ++ more, srcSilent := false }

/-- R178: on a finite source of elements `DecodeAll` terminates: one operation more than there are elements is enough, and further fuel
changes nothing. -/
def Obligations.DecodeAllTerminates : Prop :=
  ∀ (p : Params) (els : List Answer) (fuel : Nat),
    (∀ a ∈ els, a.isElement = true) → els.length + 1 ≤ fuel →
    decodeAll p fuel els = decodeAll p (els.length + 1) els
end

