-- ==== Sys2Proof/Laws/State.lean ====
section
/-! SUPPORT. One lemma per field of `State` and per update of it, so that no proof unfolds a record update; and the compound updates
(raise, report, dispatch) as one `emit` each. -/

namespace Sys2Proof.Machine

variable (s : State)

/-! ### withSrc -/

@[simp] theorem State.withSrc_st (as : List Answer) : (s.withSrc as).st = s.st := rfl
@[simp] theorem State.withSrc_b0 (as : List Answer) : (s.withSrc as).b0 = s.b0 := rfl
@[simp] theorem State.withSrc_len (as : List Answer) : (s.withSrc as).len = s.len := rfl
@[simp] theorem State.withSrc_kind (as : List Answer) : (s.withSrc as).kind = s.kind := rfl
@[simp] theorem State.withSrc_idx (as : List Answer) : (s.withSrc as).idx = s.idx := rfl
@[simp] theorem State.withSrc_rem (as : List Answer) : (s.withSrc as).rem = s.rem := rfl
@[simp] theorem State.withSrc_pend (as : List Answer) : (s.withSrc as).pend = s.pend := rfl
@[simp] theorem State.withSrc_perr (as : List Answer) : (s.withSrc as).perr = s.perr := rfl
@[simp] theorem State.withSrc_buf (as : List Answer) : (s.withSrc as).buf = s.buf := rfl
@[simp] theorem State.withSrc_item (as : List Answer) : (s.withSrc as).item = s.item := rfl
@[simp] theorem State.withSrc_stale (as : List Answer) : (s.withSrc as).stale = s.stale := rfl
@[simp] theorem State.withSrc_pos (as : List Answer) : (s.withSrc as).pos = s.pos := rfl
@[simp] theorem State.withSrc_pulls (as : List Answer) : (s.withSrc as).pulls = s.pulls := rfl
@[simp] theorem State.withSrc_src (as : List Answer) : (s.withSrc as).src = as := rfl
@[simp] theorem State.withSrc_srcSilent (as : List Answer) : (s.withSrc as).srcSilent = s.srcSilent := rfl

/-! ### count -/

@[simp] theorem State.count_st (a : Answer) : (s.count a).st = s.st := by cases a <;> rfl
@[simp] theorem State.count_b0 (a : Answer) : (s.count a).b0 = s.b0 := by cases a <;> rfl
@[simp] theorem State.count_len (a : Answer) : (s.count a).len = s.len := by cases a <;> rfl
@[simp] theorem State.count_kind (a : Answer) : (s.count a).kind = s.kind := by cases a <;> rfl
@[simp] theorem State.count_idx (a : Answer) : (s.count a).idx = s.idx := by cases a <;> rfl
@[simp] theorem State.count_rem (a : Answer) : (s.count a).rem = s.rem := by cases a <;> rfl
@[simp] theorem State.count_pend (a : Answer) : (s.count a).pend = s.pend := by cases a <;> rfl
@[simp] theorem State.count_perr (a : Answer) : (s.count a).perr = s.perr := by cases a <;> rfl
@[simp] theorem State.count_buf (a : Answer) : (s.count a).buf = s.buf := by cases a <;> rfl
@[simp] theorem State.count_item (a : Answer) : (s.count a).item = s.item := by cases a <;> rfl
@[simp] theorem State.count_stale (a : Answer) : (s.count a).stale = s.stale := by cases a <;> rfl
@[simp] theorem State.count_pulls (a : Answer) : (s.count a).pulls = s.pulls + 1 := by cases a <;> rfl
@[simp] theorem State.count_src (a : Answer) : (s.count a).src = s.src := by cases a <;> rfl
@[simp] theorem State.count_srcSilent (a : Answer) : (s.count a).srcSilent = s.srcSilent := by cases a <;> rfl

/-! ### enter -/

@[simp] theorem State.enter_st (d : DecSt) : (s.enter d).st = d := rfl
@[simp] theorem State.enter_b0 (d : DecSt) : (s.enter d).b0 = s.b0 := rfl
@[simp] theorem State.enter_len (d : DecSt) : (s.enter d).len = s.len := rfl
@[simp] theorem State.enter_kind (d : DecSt) : (s.enter d).kind = s.kind := rfl
@[simp] theorem State.enter_idx (d : DecSt) : (s.enter d).idx = s.idx := rfl
@[simp] theorem State.enter_rem (d : DecSt) : (s.enter d).rem = s.rem := rfl
@[simp] theorem State.enter_pend (d : DecSt) : (s.enter d).pend = s.pend := rfl
@[simp] theorem State.enter_perr (d : DecSt) : (s.enter d).perr = s.perr := rfl
@[simp] theorem State.enter_buf (d : DecSt) : (s.enter d).buf = s.buf := rfl
@[simp] theorem State.enter_item (d : DecSt) : (s.enter d).item = s.item := rfl
@[simp] theorem State.enter_stale (d : DecSt) : (s.enter d).stale = s.stale := rfl
@[simp] theorem State.enter_pos (d : DecSt) : (s.enter d).pos = s.pos := rfl
@[simp] theorem State.enter_pulls (d : DecSt) : (s.enter d).pulls = s.pulls := rfl
@[simp] theorem State.enter_src (d : DecSt) : (s.enter d).src = s.src := rfl
@[simp] theorem State.enter_srcSilent (d : DecSt) : (s.enter d).srcSilent = s.srcSilent := rfl

/-! ### latchB0 -/

@[simp] theorem State.latchB0_st (b : Byte) : (s.latchB0 b).st = s.st := rfl
@[simp] theorem State.latchB0_b0 (b : Byte) : (s.latchB0 b).b0 = b := rfl
@[simp] theorem State.latchB0_len (b : Byte) : (s.latchB0 b).len = s.len := rfl
@[simp] theorem State.latchB0_kind (b : Byte) : (s.latchB0 b).kind = s.kind := rfl
@[simp] theorem State.latchB0_idx (b : Byte) : (s.latchB0 b).idx = s.idx := rfl
@[simp] theorem State.latchB0_rem (b : Byte) : (s.latchB0 b).rem = s.rem := rfl
@[simp] theorem State.latchB0_pend (b : Byte) : (s.latchB0 b).pend = s.pend := rfl
@[simp] theorem State.latchB0_perr (b : Byte) : (s.latchB0 b).perr = s.perr := rfl
@[simp] theorem State.latchB0_buf (b : Byte) : (s.latchB0 b).buf = s.buf := rfl
@[simp] theorem State.latchB0_item (b : Byte) : (s.latchB0 b).item = s.item := rfl
@[simp] theorem State.latchB0_stale (b : Byte) : (s.latchB0 b).stale = s.stale := rfl
@[simp] theorem State.latchB0_pos (b : Byte) : (s.latchB0 b).pos = s.pos := rfl
@[simp] theorem State.latchB0_pulls (b : Byte) : (s.latchB0 b).pulls = s.pulls := rfl
@[simp] theorem State.latchB0_src (b : Byte) : (s.latchB0 b).src = s.src := rfl
@[simp] theorem State.latchB0_srcSilent (b : Byte) : (s.latchB0 b).srcSilent = s.srcSilent := rfl

/-! ### latchHeader -/

@[simp] theorem State.latchHeader_st (l : U13) (k : Kind) : (s.latchHeader l k).st = s.st := rfl
@[simp] theorem State.latchHeader_b0 (l : U13) (k : Kind) : (s.latchHeader l k).b0 = s.b0 := rfl
@[simp] theorem State.latchHeader_len (l : U13) (k : Kind) : (s.latchHeader l k).len = l := rfl
@[simp] theorem State.latchHeader_kind (l : U13) (k : Kind) : (s.latchHeader l k).kind = k := rfl
@[simp] theorem State.latchHeader_idx (l : U13) (k : Kind) : (s.latchHeader l k).idx = 0 := rfl
@[simp] theorem State.latchHeader_rem (l : U13) (k : Kind) : (s.latchHeader l k).rem = s.rem := rfl
@[simp] theorem State.latchHeader_pend (l : U13) (k : Kind) : (s.latchHeader l k).pend = s.pend := rfl
@[simp] theorem State.latchHeader_perr (l : U13) (k : Kind) : (s.latchHeader l k).perr = s.perr := rfl
@[simp] theorem State.latchHeader_buf (l : U13) (k : Kind) : (s.latchHeader l k).buf = s.buf := rfl
@[simp] theorem State.latchHeader_item (l : U13) (k : Kind) : (s.latchHeader l k).item = s.item := rfl
@[simp] theorem State.latchHeader_stale (l : U13) (k : Kind) : (s.latchHeader l k).stale = s.stale := rfl
@[simp] theorem State.latchHeader_pos (l : U13) (k : Kind) : (s.latchHeader l k).pos = s.pos := rfl
@[simp] theorem State.latchHeader_pulls (l : U13) (k : Kind) : (s.latchHeader l k).pulls = s.pulls := rfl
@[simp] theorem State.latchHeader_src (l : U13) (k : Kind) : (s.latchHeader l k).src = s.src := rfl
@[simp] theorem State.latchHeader_srcSilent (l : U13) (k : Kind) : (s.latchHeader l k).srcSilent = s.srcSilent := rfl

/-! ### storeByte -/

@[simp] theorem State.storeByte_st (b : Byte) : (s.storeByte b).st = s.st := rfl
@[simp] theorem State.storeByte_b0 (b : Byte) : (s.storeByte b).b0 = s.b0 := rfl
@[simp] theorem State.storeByte_len (b : Byte) : (s.storeByte b).len = s.len := rfl
@[simp] theorem State.storeByte_kind (b : Byte) : (s.storeByte b).kind = s.kind := rfl
@[simp] theorem State.storeByte_idx (b : Byte) : (s.storeByte b).idx = s.idx + 1 := rfl
@[simp] theorem State.storeByte_rem (b : Byte) : (s.storeByte b).rem = s.rem := rfl
@[simp] theorem State.storeByte_pend (b : Byte) : (s.storeByte b).pend = s.pend := rfl
@[simp] theorem State.storeByte_perr (b : Byte) : (s.storeByte b).perr = s.perr := rfl
@[simp] theorem State.storeByte_buf (b : Byte) : (s.storeByte b).buf = s.buf.write s.idx.toNat b := rfl
@[simp] theorem State.storeByte_item (b : Byte) : (s.storeByte b).item = s.item := rfl
@[simp] theorem State.storeByte_stale (b : Byte) : (s.storeByte b).stale = s.stale := rfl
@[simp] theorem State.storeByte_pos (b : Byte) : (s.storeByte b).pos = s.pos := rfl
@[simp] theorem State.storeByte_pulls (b : Byte) : (s.storeByte b).pulls = s.pulls := rfl
@[simp] theorem State.storeByte_src (b : Byte) : (s.storeByte b).src = s.src := rfl
@[simp] theorem State.storeByte_srcSilent (b : Byte) : (s.storeByte b).srcSilent = s.srcSilent := rfl

/-! ### latchIllegalSize -/

@[simp] theorem State.latchIllegalSize_st (n : U13) : (s.latchIllegalSize n).st = s.st := rfl
@[simp] theorem State.latchIllegalSize_b0 (n : U13) : (s.latchIllegalSize n).b0 = s.b0 := rfl
@[simp] theorem State.latchIllegalSize_len (n : U13) : (s.latchIllegalSize n).len = s.len := rfl
@[simp] theorem State.latchIllegalSize_kind (n : U13) : (s.latchIllegalSize n).kind = s.kind := rfl
@[simp] theorem State.latchIllegalSize_idx (n : U13) : (s.latchIllegalSize n).idx = s.idx := rfl
@[simp] theorem State.latchIllegalSize_rem (n : U13) : (s.latchIllegalSize n).rem = n := rfl
@[simp] theorem State.latchIllegalSize_pend (n : U13) : (s.latchIllegalSize n).pend = .illegalSize := rfl
@[simp] theorem State.latchIllegalSize_perr (n : U13) : (s.latchIllegalSize n).perr = s.perr := rfl
@[simp] theorem State.latchIllegalSize_buf (n : U13) : (s.latchIllegalSize n).buf = s.buf := rfl
@[simp] theorem State.latchIllegalSize_item (n : U13) : (s.latchIllegalSize n).item = s.item := rfl
@[simp] theorem State.latchIllegalSize_stale (n : U13) : (s.latchIllegalSize n).stale = s.stale := rfl
@[simp] theorem State.latchIllegalSize_pos (n : U13) : (s.latchIllegalSize n).pos = s.pos := rfl
@[simp] theorem State.latchIllegalSize_pulls (n : U13) : (s.latchIllegalSize n).pulls = s.pulls := rfl
@[simp] theorem State.latchIllegalSize_src (n : U13) : (s.latchIllegalSize n).src = s.src := rfl
@[simp] theorem State.latchIllegalSize_srcSilent (n : U13) : (s.latchIllegalSize n).srcSilent = s.srcSilent := rfl

/-! ### latchTransport -/

@[simp] theorem State.latchTransport_st (n : U13) (e : ErrVal) : (s.latchTransport n e).st = s.st := rfl
@[simp] theorem State.latchTransport_b0 (n : U13) (e : ErrVal) : (s.latchTransport n e).b0 = s.b0 := rfl
@[simp] theorem State.latchTransport_len (n : U13) (e : ErrVal) : (s.latchTransport n e).len = s.len := rfl
@[simp] theorem State.latchTransport_kind (n : U13) (e : ErrVal) : (s.latchTransport n e).kind = s.kind := rfl
@[simp] theorem State.latchTransport_idx (n : U13) (e : ErrVal) : (s.latchTransport n e).idx = s.idx := rfl
@[simp] theorem State.latchTransport_rem (n : U13) (e : ErrVal) : (s.latchTransport n e).rem = n := rfl
@[simp] theorem State.latchTransport_pend (n : U13) (e : ErrVal) : (s.latchTransport n e).pend = .transport := rfl
@[simp] theorem State.latchTransport_perr (n : U13) (e : ErrVal) : (s.latchTransport n e).perr = e := rfl
@[simp] theorem State.latchTransport_buf (n : U13) (e : ErrVal) : (s.latchTransport n e).buf = s.buf := rfl
@[simp] theorem State.latchTransport_item (n : U13) (e : ErrVal) : (s.latchTransport n e).item = s.item := rfl
@[simp] theorem State.latchTransport_stale (n : U13) (e : ErrVal) : (s.latchTransport n e).stale = s.stale := rfl
@[simp] theorem State.latchTransport_pos (n : U13) (e : ErrVal) : (s.latchTransport n e).pos = s.pos := rfl
@[simp] theorem State.latchTransport_pulls (n : U13) (e : ErrVal) : (s.latchTransport n e).pulls = s.pulls := rfl
@[simp] theorem State.latchTransport_src (n : U13) (e : ErrVal) : (s.latchTransport n e).src = s.src := rfl
@[simp] theorem State.latchTransport_srcSilent (n : U13) (e : ErrVal) : (s.latchTransport n e).srcSilent = s.srcSilent := rfl

/-! ### countDown -/

@[simp] theorem State.countDown_st : (s.countDown).st = s.st := rfl
@[simp] theorem State.countDown_b0 : (s.countDown).b0 = s.b0 := rfl
@[simp] theorem State.countDown_len : (s.countDown).len = s.len := rfl
@[simp] theorem State.countDown_kind : (s.countDown).kind = s.kind := rfl
@[simp] theorem State.countDown_idx : (s.countDown).idx = s.idx := rfl
@[simp] theorem State.countDown_rem : (s.countDown).rem = s.rem - 1 := rfl
@[simp] theorem State.countDown_pend : (s.countDown).pend = s.pend := rfl
@[simp] theorem State.countDown_perr : (s.countDown).perr = s.perr := rfl
@[simp] theorem State.countDown_buf : (s.countDown).buf = s.buf := rfl
@[simp] theorem State.countDown_item : (s.countDown).item = s.item := rfl
@[simp] theorem State.countDown_stale : (s.countDown).stale = s.stale := rfl
@[simp] theorem State.countDown_pos : (s.countDown).pos = s.pos := rfl
@[simp] theorem State.countDown_pulls : (s.countDown).pulls = s.pulls := rfl
@[simp] theorem State.countDown_src : (s.countDown).src = s.src := rfl
@[simp] theorem State.countDown_srcSilent : (s.countDown).srcSilent = s.srcSilent := rfl

/-! ### emit -/

@[simp] theorem State.emit_st (i : Item) : (s.emit i).st = .idle := rfl
@[simp] theorem State.emit_b0 (i : Item) : (s.emit i).b0 = s.b0 := rfl
@[simp] theorem State.emit_len (i : Item) : (s.emit i).len = s.len := rfl
@[simp] theorem State.emit_kind (i : Item) : (s.emit i).kind = s.kind := rfl
@[simp] theorem State.emit_idx (i : Item) : (s.emit i).idx = s.idx := rfl
@[simp] theorem State.emit_rem (i : Item) : (s.emit i).rem = s.rem := rfl
@[simp] theorem State.emit_pend (i : Item) : (s.emit i).pend = s.pend := rfl
@[simp] theorem State.emit_perr (i : Item) : (s.emit i).perr = s.perr := rfl
@[simp] theorem State.emit_buf (i : Item) : (s.emit i).buf = s.buf := rfl
@[simp] theorem State.emit_item (i : Item) : (s.emit i).item = some i := rfl
@[simp] theorem State.emit_stale (i : Item) : (s.emit i).stale = s.stale := rfl
@[simp] theorem State.emit_pos (i : Item) : (s.emit i).pos = s.pos := rfl
@[simp] theorem State.emit_pulls (i : Item) : (s.emit i).pulls = s.pulls := rfl
@[simp] theorem State.emit_src (i : Item) : (s.emit i).src = s.src := rfl
@[simp] theorem State.emit_srcSilent (i : Item) : (s.emit i).srcSilent = s.srcSilent := rfl

/-! ### acceptNext -/

@[simp] theorem State.acceptNext_st : (s.acceptNext).st = .hdr0 := rfl
@[simp] theorem State.acceptNext_b0 : (s.acceptNext).b0 = s.b0 := rfl
@[simp] theorem State.acceptNext_len : (s.acceptNext).len = s.len := rfl
@[simp] theorem State.acceptNext_kind : (s.acceptNext).kind = s.kind := rfl
@[simp] theorem State.acceptNext_idx : (s.acceptNext).idx = s.idx := rfl
@[simp] theorem State.acceptNext_rem : (s.acceptNext).rem = s.rem := rfl
@[simp] theorem State.acceptNext_pend : (s.acceptNext).pend = s.pend := rfl
@[simp] theorem State.acceptNext_perr : (s.acceptNext).perr = s.perr := rfl
@[simp] theorem State.acceptNext_buf : (s.acceptNext).buf = s.buf := rfl
@[simp] theorem State.acceptNext_item : (s.acceptNext).item = none := rfl
@[simp] theorem State.acceptNext_stale : (s.acceptNext).stale = s.stale := rfl
@[simp] theorem State.acceptNext_pos : (s.acceptNext).pos = s.pos := rfl
@[simp] theorem State.acceptNext_pulls : (s.acceptNext).pulls = s.pulls := rfl
@[simp] theorem State.acceptNext_src : (s.acceptNext).src = s.src := rfl
@[simp] theorem State.acceptNext_srcSilent : (s.acceptNext).srcSilent = s.srcSilent := rfl

/-! ### offer -/

/-- A source that gives nothing more takes no further answers (R36); any other gets them behind those it held. -/
theorem State.offer_cases (p : Params) (as : List Answer) :
    (p.srcFused = true ∧ s.srcSilent = false ∧ s.offer p as = s) ∨
    ((p.srcFused = true → s.srcSilent = true) ∧ s.offer p as = s.withSrc (s.src ++ as)) := by
  unfold State.offer
  cases hf : p.srcFused <;> cases hs : s.srcSilent <;> simp

@[simp] theorem State.offer_st (p : Params) (as : List Answer) : (s.offer p as).st = s.st := by unfold State.offer; split <;> rfl
@[simp] theorem State.offer_b0 (p : Params) (as : List Answer) : (s.offer p as).b0 = s.b0 := by unfold State.offer; split <;> rfl
@[simp] theorem State.offer_len (p : Params) (as : List Answer) : (s.offer p as).len = s.len := by unfold State.offer; split <;> rfl
@[simp] theorem State.offer_kind (p : Params) (as : List Answer) : (s.offer p as).kind = s.kind := by unfold State.offer; split <;> rfl
@[simp] theorem State.offer_idx (p : Params) (as : List Answer) : (s.offer p as).idx = s.idx := by unfold State.offer; split <;> rfl
@[simp] theorem State.offer_rem (p : Params) (as : List Answer) : (s.offer p as).rem = s.rem := by unfold State.offer; split <;> rfl
@[simp] theorem State.offer_pend (p : Params) (as : List Answer) : (s.offer p as).pend = s.pend := by unfold State.offer; split <;> rfl
@[simp] theorem State.offer_perr (p : Params) (as : List Answer) : (s.offer p as).perr = s.perr := by unfold State.offer; split <;> rfl
@[simp] theorem State.offer_buf (p : Params) (as : List Answer) : (s.offer p as).buf = s.buf := by unfold State.offer; split <;> rfl
@[simp] theorem State.offer_item (p : Params) (as : List Answer) : (s.offer p as).item = s.item := by unfold State.offer; split <;> rfl
@[simp] theorem State.offer_stale (p : Params) (as : List Answer) : (s.offer p as).stale = s.stale := by unfold State.offer; split <;> rfl
@[simp] theorem State.offer_pos (p : Params) (as : List Answer) : (s.offer p as).pos = s.pos := by unfold State.offer; split <;> rfl
@[simp] theorem State.offer_pulls (p : Params) (as : List Answer) : (s.offer p as).pulls = s.pulls := by unfold State.offer; split <;> rfl
@[simp] theorem State.offer_srcSilent (p : Params) (as : List Answer) : (s.offer p as).srcSilent = s.srcSilent := by unfold State.offer; split <;> rfl

@[simp] theorem State.count_pos_byte (b : Byte) : (s.count (.byte b)).pos = s.pos + 1 := rfl
@[simp] theorem State.count_pos_err (e : ErrVal) : (s.count (.err e)).pos = s.pos + 1 := rfl
@[simp] theorem State.count_pos_fin : (s.count .fin).pos = s.pos := rfl

/-! ### compound updates -/

/-- Raising an error is delivering its item (R222). -/
@[simp] theorem State.raise_eq_emit (e : DecError) : s.raise e = s.emit (.error e) := rfl

/-- The report after a skip delivers the latched error (R171). -/
theorem State.report_eq_emit :
    s.report = s.emit (.error (match s.pend with | .illegalSize => .illegalSize | .transport => .transport s.perr)) := by
  unfold State.report
  cases s.pend <;> rfl

/-- The dispatch delivers the item of the complete buffer (R173). -/
theorem State.dispatch_eq_emit : s.dispatch = s.emit (itemOf s.kind s.payload) := by
  cases hk : s.kind with
  | unknown => simp [State.dispatch, hk, State.dispatchUnknown, itemOf]
  | ss =>
    simp only [State.dispatch, hk, State.dispatchSpeakingStart, itemOf]
    cases ssParse s.payload <;> rfl
  | au =>
    simp only [State.dispatch, hk, State.dispatchAudio, itemOf]
    cases auParse s.payload <;> rfl

@[simp] theorem State.srcReq_emit (i : Item) : (s.emit i).srcReq = false := rfl

/-- A pull is outstanding exactly outside IDLE (R22, R34). -/
theorem State.srcReq_iff : s.srcReq = true ↔ s.st ≠ .idle := by
  unfold State.srcReq
  cases s.st <;> simp

end Sys2Proof.Machine
end

