-- ==== Sys2Proof/Laws/Transition.lean ====
section
/-! SUPPORT. What one transition can do: one equation per state and answer, and the registers each transition leaves alone. -/

namespace Sys2Proof.Machine

variable {p : Params} {s : State}

/-! ### the transition on an answer, by state -/

theorem onAnswer_idle (a : Answer) (h : s.st = .idle) : onAnswer p a s = .refused .answerWithoutPull := by
  simp [onAnswer, h]

theorem onAnswer_hdr0 (a : Answer) (h : s.st = .hdr0) : onAnswer p a s = .next (onHdr0 a (s.count a)) := by
  simp [onAnswer, h]

theorem onAnswer_hdr1 (a : Answer) (h : s.st = .hdr1) : onAnswer p a s = .next (onHdr1 p a (s.count a)) := by
  simp [onAnswer, h]

theorem onAnswer_payload (a : Answer) (h : s.st = .payload) : onAnswer p a s = onPayload a (s.count a) := by
  simp [onAnswer, h]

theorem onAnswer_skip (a : Answer) (h : s.st = .skip) : onAnswer p a s = .next (onSkip a (s.count a)) := by
  simp [onAnswer, h]

/-- With no abandoned pull, an answer is the transition on it (R151). -/
theorem decStep_rsp (a : Answer) (h : s.stale = 0) : decStep p s (.rsp a) = onAnswer p a s := by
  simp [decStep, h]

/-- END ends the operation in every state with a pull outstanding, and what it delivers depends on the state alone (R154,
R157, R165, R170). -/
theorem onAnswer_fin (h : s.st ≠ .idle) :
    ∃ i, onAnswer p .fin s = .next ((s.count .fin).emit i) := by
  cases hs : s.st with
  | idle => exact absurd hs h
  | hdr0 => exact ⟨_, onAnswer_hdr0 _ hs⟩
  | hdr1 => exact ⟨_, onAnswer_hdr1 _ hs⟩
  | payload => exact ⟨_, onAnswer_payload _ hs⟩
  | skip => exact ⟨_, (onAnswer_skip _ hs).trans (by rw [onSkip, State.report_eq_emit])⟩

/-- The branch after the header (R160), each outcome with the registers it leaves. -/
theorem acceptHeader_cases (p : Params) (l : U13) (k : Kind) (s : State) :
    (p.maxPayload < l.toNat ∧
      acceptHeader p l k s = ((s.latchHeader l k).latchIllegalSize l).enter .skip) ∨
    (l.toNat ≤ p.maxPayload ∧ l = 0 ∧
      acceptHeader p l k s = (s.latchHeader l k).emit (itemOf k [])) ∨
    (l.toNat ≤ p.maxPayload ∧ l ≠ 0 ∧ acceptHeader p l k s = (s.latchHeader l k).enter .payload) := by
  unfold acceptHeader
  split
  · exact .inl ⟨‹_›, rfl⟩
  · rename_i hmax
    split
    · rename_i hl
      refine .inr (.inl ⟨by omega, hl, ?_⟩)
      rw [State.dispatch_eq_emit]
      subst hl
      rfl
    · exact .inr (.inr ⟨by omega, ‹_›, rfl⟩)

/-- A payload byte within the declared length (R164). -/
theorem onAnswer_payload_byte (b : Byte) (h : s.st = .payload) (hb : s.idx.toNat < Config.bufSize) :
    onAnswer p (.byte b) s = .next (acceptByte b (s.count (.byte b))) := by
  rw [onAnswer_payload _ h]
  simp [onPayload, hb]

/-- The last payload byte (R164). -/
theorem acceptByte_last (b : Byte) (h : s.idx + 1 = s.len) :
    acceptByte b s = (s.storeByte b).emit (itemOf s.kind (s.storeByte b).payload) := by
  unfold acceptByte
  rw [if_pos (by simpa using h), State.dispatch_eq_emit]
  rfl

/-- Any other payload byte (R164). -/
theorem acceptByte_more (b : Byte) (h : s.idx + 1 ≠ s.len) : acceptByte b s = s.storeByte b := by
  unfold acceptByte
  rw [if_neg (by simpa using h)]

/-- The last owed pull of a skip (R169, R171). -/
theorem skipOne_last (h : s.rem = 1) :
    skipOne s = s.countDown.emit (.error (match s.pend with | .illegalSize => .illegalSize | .transport => .transport s.perr)) := by
  unfold skipOne
  rw [if_pos (by simp [h]), State.report_eq_emit]
  rfl

/-- Any other owed pull of a skip (R169). -/
theorem skipOne_more (h : s.rem ≠ 1) : skipOne s = s.countDown := by
  unfold skipOne
  rw [if_neg]
  simp only [State.countDown_rem]
  intro h0
  apply h
  have := congrArg (· + 1) h0
  simpa using this

/-- An element (a byte or an error alike) in SKIP (R169). -/
theorem onAnswer_skip_element {a : Answer} (ha : a.isElement = true) (h : s.st = .skip) :
    onAnswer p a s = .next (skipOne (s.count a)) := by
  rw [onAnswer_skip _ h]
  cases a <;> simp_all [onSkip, Answer.isElement]

/-- An element counts one in `POS` (R29). -/
theorem State.count_element {a : Answer} (ha : a.isElement = true) (s : State) :
    s.count a = { s with pos := s.pos + 1, pulls := s.pulls + 1 } := by
  cases a <;> simp_all [Answer.isElement, State.count]

end Sys2Proof.Machine
end

