-- ==== Sys2Proof/Laws/Source.lean ====
section
/-! SUPPORT. The byte source: what it answers, and that under `SRC_FUSED` it stays at END (R36). -/

namespace Sys2Proof.Machine

variable {p : Params} {s : State}

/-- A pull is not answered exactly when the list is used up and the source is silent (R185). -/
theorem State.pullAnswer_none : s.pullAnswer p = none ↔ s.src = [] ∧ s.srcSilent = true := by
  unfold State.pullAnswer
  cases s.src <;> simp

/-- A pull is outstanding and not answered. -/
theorem blocked_iff : blocked s = true ↔ s.srcReq = true ∧ s.pullAnswer p = none := by
  rw [State.pullAnswer_none]
  simp [blocked, and_assoc]

/-- The source answers END exactly when its list is used up for good, or END comes next. -/
theorem State.atEnd_iff : s.AtEnd p ↔ (s.src = [] ∧ s.srcSilent = false) ∨ ∃ more, s.src = .fin :: more := by
  unfold State.AtEnd State.pullAnswer
  cases hs : s.src with
  | nil => simp
  | cons a as => simp

/-- An END answered under `SRC_FUSED` leaves the source as it was. -/
theorem State.AtEnd.stays (hp : p.srcFused = true) (h : s.AtEnd p) : s.pullAnswer p = some (.fin, s.src) := by
  obtain ⟨hs, hq⟩ | ⟨more, hs⟩ := State.atEnd_iff.mp h <;> simp [State.pullAnswer, sourceAfter, *]

/-- A pull of such a source is the transition on END, the source left as it was. -/
theorem State.AtEnd.pullStep (hp : p.srcFused = true) (h : s.AtEnd p) :
    pullStep p s = decStep p s (.rsp .fin) := by
  simp only [Machine.pullStep, h.stays hp]
  rfl

/-- What the source comes to give later does not undo END. -/
theorem State.AtEnd.offer (h : s.AtEnd p) (hp : p.srcFused = true) (as : List Answer) : (s.offer p as).AtEnd p := by
  obtain ⟨-, -, ho⟩ | ⟨hq, ho⟩ := s.offer_cases p as <;> rw [ho]
  · exact h
  · obtain ⟨-, hs⟩ | ⟨more, hs⟩ := State.atEnd_iff.mp h
    · simp [hq hp] at hs
    · exact State.atEnd_iff.mpr (.inr ⟨more ++ as, by simp [hs]⟩)

end Sys2Proof.Machine
end

