-- ==== Sys2Proof/Laws/Run.lean ====
section
/-! SUPPORT. Runs of transitions: collecting payload bytes and skipping, each once, by induction on the source's answers. -/

namespace Sys2Proof.Machine

variable {p : Params} {s : State}

/-! ### the source of the state plays no part but through the list `run` is given -/

@[simp] theorem State.withSrc_withSrc (s : State) (as bs : List Answer) : (s.withSrc as).withSrc bs = s.withSrc bs := rfl

@[simp] theorem State.withSrc_self (s : State) : s.withSrc s.src = s := rfl

theorem run_withSrc (as bs : List Answer) (s : State) : run p as (s.withSrc bs) = run p as s := by
  cases as <;> rfl

/-- A run is driven by the source's own answers, one at a time. -/
theorem run_pullAnswer (s : State) :
    run p s.src s =
      match s.pullAnswer p with
      | none => .next s
      | some (a, rest) =>
        match onAnswer p a (s.withSrc rest) with
        | .next t => if t.st = .idle then .next t else run p s.src.tail t
        | .fault f => .fault f
        | .refused r => .refused r := by
  cases hs : s.src with
  | nil =>
    have hw : s.withSrc [] = s := by rw [← hs]; rfl
    cases hq : s.srcSilent with
    | true => simp [run, State.pullAnswer, hs, hq, hw]
    | false =>
      simp only [run, State.pullAnswer, hs, hq, Bool.false_eq_true, if_false]
      by_cases hst : s.st = .idle
      · rw [onAnswer_idle _ (by simpa using hst)]
      · obtain ⟨i, hi⟩ := onAnswer_fin (p := p) (s := s.withSrc []) (by simpa using hst)
        simp [hi]
  | cons a as =>
    simp only [run, State.pullAnswer, hs, List.tail_cons]
    all_goals rfl

/-- A transition that delivers an item ends the run. -/
theorem run_cons_idle {a : Answer} {as : List Answer} {t : State}
    (h : onAnswer p a (s.withSrc (sourceAfter p a as)) = .next t) (ht : t.st = .idle) :
    run p (a :: as) s = .next t := by
  simp [run, h, ht]

/-- Any other transition is followed by the rest of the run. -/
theorem run_cons_more {a : Answer} {as : List Answer} {t : State}
    (h : onAnswer p a (s.withSrc (sourceAfter p a as)) = .next t) (ht : t.st ≠ .idle) :
    run p (a :: as) s = run p as t := by
  simp [run, h, ht]

/-! ### collecting payload bytes (R164) -/

/-- The state after further payload bytes are stored. -/
def State.stored (s : State) (bs : List Byte) : State :=
  { s with
    buf := s.buf.writeBytes s.idx.toNat bs, idx := s.idx + BitVec.ofNat 13 bs.length,
    pos := s.pos + bs.length, pulls := s.pulls + bs.length }

theorem State.stored_nil (s : State) : s.stored [] = s := by
  simp [State.stored, Memory.writeBytes]

theorem State.stored_cons (s : State) (b : Byte) (bs : List Byte) (h : s.idx.toNat + 1 < 2 ^ 13) :
    s.stored (b :: bs) = ((s.count (.byte b)).storeByte b).stored bs := by
  have hi : (s.idx + 1).toNat = s.idx.toNat + 1 := by
    rw [BitVec.toNat_add]
    exact Nat.mod_eq_of_lt (by simpa using h)
  have hx : s.idx + BitVec.ofNat 13 (bs.length + 1) = s.idx + 1 + BitVec.ofNat 13 bs.length := by
    rw [BitVec.add_assoc, Nat.add_comm, BitVec.ofNat_add]
    rfl
  simp only [State.stored, State.storeByte, State.count, Memory.writeBytes, List.length_cons, hi, hx,
    Nat.add_assoc, Nat.add_comm 1]

theorem State.stored_idx (s : State) (bs : List Byte) (h : s.idx.toNat + bs.length < 2 ^ 13) :
    (s.stored bs).idx.toNat = s.idx.toNat + bs.length := by
  simp only [State.stored, BitVec.toNat_add, BitVec.toNat_ofNat]
  omega

/-- Payload bytes short of the declared length are stored, and the run goes on. -/
theorem run_bytes_short (bs : List Byte) (as : List Answer) (s : State) (hst : s.st = .payload)
    (hlen : s.idx.toNat + bs.length < s.len.toNat) :
    run p (byteAnswers bs ++ as) s = run p as (s.stored bs) := by
  induction bs generalizing s with
  | nil => simp [byteAnswers, State.stored_nil]
  | cons b bs ih =>
    simp only [List.length_cons] at hlen
    have hl := s.len.isLt
    have hi : (s.idx + 1).toNat = s.idx.toNat + 1 := by
      rw [BitVec.toNat_add]
      exact Nat.mod_eq_of_lt (by simp; omega)
    have hne : s.idx + 1 ≠ s.len := by
      intro h
      have := congrArg BitVec.toNat h
      omega
    have hstep : onAnswer p (.byte b) (s.withSrc (byteAnswers bs ++ as)) =
        .next ((((s.withSrc (byteAnswers bs ++ as)).count (.byte b))).storeByte b) := by
      rw [onAnswer_payload_byte b (by simpa using hst) (by simp [Config.bufSize]; omega),
        acceptByte_more b (by simpa using hne)]
    have := run_cons_more (p := p) (as := byteAnswers bs ++ as) hstep (by simp [hst])
    simp only [byteAnswers, List.map_cons, List.cons_append] at this ⊢
    rw [this]
    have hcomm : ((s.withSrc (List.map Answer.byte bs ++ as)).count (.byte b)).storeByte b =
        ((s.count (.byte b)).storeByte b).withSrc (List.map Answer.byte bs ++ as) := rfl
    rw [hcomm, run_withSrc, State.stored_cons s b bs (by omega)]
    exact ih _ (by simp [hst]) (by simp only [State.storeByte_idx, State.count_idx, State.storeByte_len, State.count_len, hi]; omega)

/-- The payload bytes that complete the buffer are stored and the item is delivered. -/
theorem run_bytes_full (bs : List Byte) (as : List Answer) (s : State) (hst : s.st = .payload)
    (hlt : s.idx.toNat < s.len.toNat) (hlen : s.idx.toNat + bs.length = s.len.toNat) :
    run p (byteAnswers bs ++ as) s =
      .next (((s.stored bs).withSrc as).emit (itemOf s.kind (s.stored bs).payload)) := by
  obtain ⟨init, b, rfl⟩ : ∃ init b, bs = init ++ [b] := by
    cases h : bs.reverse with
    | nil => simp_all
    | cons b r => exact ⟨r.reverse, b, by simpa using congrArg List.reverse h⟩
  simp only [List.length_append, List.length_singleton] at hlen
  have hl := s.len.isLt
  have hsplit : byteAnswers (init ++ [b]) ++ as = byteAnswers init ++ (.byte b :: as) := by simp [byteAnswers]
  rw [hsplit, run_bytes_short init _ s hst (by omega)]
  have hidx := s.stored_idx init (by omega)
  have hst' : (s.stored init).st = .payload := hst
  have hlen' : (s.stored init).len = s.len := rfl
  have hlast : (s.stored init).idx + 1 = s.len := by
    apply BitVec.eq_of_toNat_eq
    rw [BitVec.toNat_add, hidx]
    simp
    omega
  have hall : ((s.stored init).count (.byte b)).storeByte b = s.stored (init ++ [b]) := by
    simp only [State.storeByte, State.count, hidx]
    simp only [State.stored, Memory.writeBytes_append, Memory.writeBytes, List.length_append, List.length_singleton,
      BitVec.ofNat_add, BitVec.add_assoc, Nat.add_assoc]
    rfl
  have hstep : onAnswer p (.byte b) ((s.stored init).withSrc as) =
      .next (((s.stored (init ++ [b])).withSrc as).emit (itemOf s.kind (s.stored (init ++ [b])).payload)) := by
    rw [onAnswer_payload_byte b (by simpa using hst') (by simp [Config.bufSize, hidx]; omega),
      acceptByte_last b (by simpa [hlen'] using hlast)]
    have hc : (((s.stored init).withSrc as).count (.byte b)).storeByte b = (s.stored (init ++ [b])).withSrc as := by
      rw [← hall]
      rfl
    rw [hc]
    rfl
  exact run_cons_idle (p := p) (a := .byte b) hstep rfl

/-- From index 0 the buffer the dispatch reads is the bytes stored. -/
theorem State.stored_payload (s : State) (bs : List Byte) (hidx : s.idx = 0) (hlen : bs.length = s.len.toNat) :
    (s.stored bs).payload = bs := by
  have h := Memory.readBytes_writeBytes bs s.buf 0
  rw [hlen] at h
  simpa [State.payload, State.stored, hidx] using h

/-! ### skipping (R169 to R171) -/

/-- The item reported after a skip. -/
def State.latched (s : State) : Item :=
  .error (match s.pend with | .illegalSize => .illegalSize | .transport => .transport s.perr)

/-- The state after further owed pulls are answered. -/
def State.skipped (s : State) (n : Nat) : State :=
  { s with rem := s.rem - BitVec.ofNat 13 n, pos := s.pos + n, pulls := s.pulls + n }

/-- Elements short of the owed number are thrown away, and the skip goes on. -/
theorem run_skip_short (els as : List Answer) (s : State) (hst : s.st = .skip)
    (hels : ∀ a ∈ els, a.isElement = true) (hlen : els.length < s.rem.toNat) :
    run p (els ++ as) s = run p as (s.skipped els.length) := by
  induction els generalizing s with
  | nil => simp [State.skipped]
  | cons a els ih =>
    simp only [List.length_cons] at hlen
    have hl := s.rem.isLt
    have ha : a.isElement = true := hels a (by simp)
    have hsrc : sourceAfter p a (els ++ as) = els ++ as := by
      cases a <;> simp_all [sourceAfter, Answer.isElement]
    have hne : s.rem ≠ 1 := by
      intro h
      rw [h] at hlen
      simp at hlen
    have hstep : onAnswer p a (s.withSrc (sourceAfter p a (els ++ as))) =
        .next (((s.withSrc (els ++ as)).count a).countDown) := by
      rw [hsrc, onAnswer_skip_element ha (by simpa using hst), skipOne_more (by simpa using hne)]
    rw [List.cons_append, run_cons_more hstep (by simp [hst])]
    have hcomm : ((s.withSrc (els ++ as)).count a).countDown = ((s.count a).countDown).withSrc (els ++ as) := by
      cases a <;> rfl
    have hrem : (s.rem - 1).toNat = s.rem.toNat - 1 := by
      rw [BitVec.toNat_sub]
      simp
      omega
    rw [hcomm, run_withSrc, ih _ (by simp [hst]) (fun x hx => hels x (by simp [hx]))
      (by simp only [State.countDown_rem, State.count_rem, hrem]; omega)]
    congr 1
    simp only [State.skipped, State.countDown, State.count_element ha, List.length_cons]
    congr 1
    · rw [Nat.add_comm els.length, BitVec.ofNat_add, BitVec.sub_sub]
      rfl
    · omega
    · omega

/-- The last owed element ends the skip with the latched error. -/
theorem run_skip_full (els as : List Answer) (s : State) (hst : s.st = .skip)
    (hels : ∀ a ∈ els, a.isElement = true) (hpos : 0 < s.rem.toNat) (hlen : els.length = s.rem.toNat) :
    run p (els ++ as) s = .next (((s.skipped els.length).withSrc as).emit s.latched) := by
  obtain ⟨init, a, rfl⟩ : ∃ init a, els = init ++ [a] := by
    cases h : els.reverse with
    | nil => simp_all
    | cons b r => exact ⟨r.reverse, b, by simpa using congrArg List.reverse h⟩
  simp only [List.length_append, List.length_singleton] at hlen
  have hl := s.rem.isLt
  have ha : a.isElement = true := hels a (by simp)
  rw [List.append_assoc, run_skip_short init _ s hst (fun x hx => hels x (by simp [hx])) (by omega)]
  have hsrc : sourceAfter p a as = as := by
    cases a <;> simp_all [sourceAfter, Answer.isElement]
  have hrem : (s.skipped init.length).rem = 1 := by
    apply BitVec.eq_of_toNat_eq
    simp only [State.skipped, BitVec.toNat_sub, BitVec.toNat_ofNat, show BitVec.toNat (1 : U13) = 1 from rfl]
    omega
  have hstep : onAnswer p a ((s.skipped init.length).withSrc (sourceAfter p a as)) =
      .next (((s.skipped (init.length + 1)).withSrc as).emit s.latched) := by
    have hst' : (s.skipped init.length).st = .skip := hst
    rw [hsrc, onAnswer_skip_element ha (by simpa using hst'), skipOne_last (by simpa using hrem)]
    have hc : (((s.skipped init.length).withSrc as).count a).countDown = (s.skipped (init.length + 1)).withSrc as := by
      rw [State.count_element ha]
      simp only [State.skipped, State.countDown, State.withSrc, BitVec.ofNat_add, BitVec.sub_sub, Nat.add_assoc]
      rfl
    rw [hc]
    simp only [State.count_pend, State.withSrc_pend, State.count_perr, State.withSrc_perr]
    rfl
  simp only [List.singleton_append, List.length_append, List.length_singleton]
  exact run_cons_idle (p := p) hstep rfl

/-! ### one instruction, by what the source holds -/

/-- The state in which the payload of a header is collected. -/
def State.collecting (s : State) (l : U13) (k : Kind) : State := (s.latchHeader l k).enter .payload

/-- A header within the ceiling and with a payload goes on in PAYLOAD (R162). -/
theorem execHeader_payload {l : U13} {k : Kind} (hmax : l.toNat ≤ p.maxPayload) (hl : l ≠ 0) :
    execHeader p l k s = run p s.src (s.collecting l k) := by
  obtain ⟨h, -⟩ | ⟨-, h, -⟩ | ⟨-, -, h⟩ := acceptHeader_cases p l k s
  · omega
  · exact absurd h hl
  · simp [execHeader, resume, h, State.collecting]

/-- A header within the ceiling and with a complete payload: one equation for every length, zero included (R161, R164). -/
theorem execHeader_complete {l : U13} {k : Kind} (bs : List Byte) (rest : List Answer)
    (hmax : l.toNat ≤ p.maxPayload) (hsrc : s.src = byteAnswers bs ++ rest) (hlen : bs.length = l.toNat) :
    execHeader p l k s =
      .next ((((s.latchHeader l k).stored bs).withSrc rest).emit (itemOf k bs)) := by
  by_cases hl : l = 0
  · subst hl
    obtain rfl : bs = [] := by simpa using hlen
    have hrest : s.src = rest := by simpa [byteAnswers] using hsrc
    obtain ⟨h, -⟩ | ⟨-, -, h⟩ | ⟨-, h, -⟩ := acceptHeader_cases p 0 k s
    · omega
    · rw [execHeader, h, State.stored_nil, ← hrest]
      rfl
    · exact absurd rfl h
  · have hpos : 0 < l.toNat := Nat.pos_of_ne_zero (fun h => hl (BitVec.eq_of_toNat_eq h))
    rw [execHeader_payload hmax hl, hsrc, run_bytes_full bs rest _ rfl (by simpa [State.collecting] using hpos)
      (by simpa [State.collecting] using hlen)]
    have hp := State.stored_payload (s.collecting l k) bs rfl hlen
    rw [hp]
    rfl

/-! ### the source runs out -/

/-- The source exhausted in PAYLOAD: `UnexpectedTermination` (R165). -/
theorem run_payload_end (hst : s.st = .payload) (hs : s.srcSilent = false) :
    run p [] s = .next (((s.withSrc []).count .fin).emit (.error .unexpectedTermination)) := by
  simp only [run, hs]
  exact onAnswer_payload _ (by simpa using hst)

/-- The source exhausted in SKIP: the latched error (R170). -/
theorem run_skip_end (hst : s.st = .skip) (hs : s.srcSilent = false) :
    run p [] s = .next (((s.withSrc []).count .fin).emit s.latched) := by
  simp only [run, hs]
  exact (onAnswer_skip _ (by simpa using hst)).trans (by rw [onSkip, State.report_eq_emit]; rfl)

end Sys2Proof.Machine
end

