-- ==== Sys2Proof/Laws/Progress.lean ====
section
/-! SUPPORT. An operation whose header is complete always goes on: what a transition and a whole run from PAYLOAD or SKIP can come to, and what
they leave alone. -/

namespace Sys2Proof.Machine

variable {p : Params}

/-- The header is complete and the item is not delivered yet, within the invariant of PAYLOAD. -/
def State.Active (s : State) : Prop :=
  (s.st = .payload ∧ s.idx.toNat < s.len.toNat) ∨ s.st = .skip

theorem State.Active.ne_idle {s : State} (h : s.Active) : s.st ≠ .idle := by
  rcases h with ⟨h, -⟩ | h <;> simp [h]

theorem State.Active.withSrc {s : State} (h : s.Active) (as : List Answer) : (s.withSrc as).Active := h

/-- The next index does not wrap below the declared length. -/
theorem idx_succ_toNat {i l : U13} (h : i.toNat < l.toNat) : (i + 1).toNat = i.toNat + 1 := by
  have := l.isLt
  rw [BitVec.toNat_add]
  exact Nat.mod_eq_of_lt (by simp; omega)

/-- The bytes owed after an error at payload byte `k`: `LEN - k - 1` without a borrow (R166). -/
theorem owed_toNat {i l : U13} (h : i.toNat < l.toNat) : (l - i - 1).toNat = l.toNat - i.toNat - 1 := by
  have h1 : BitVec.toNat (1 : U13) = 1 := rfl
  have := l.isLt
  simp only [BitVec.toNat_sub, h1]
  omega

/-- What no transition after the header writes, and where it may write in `BUF`. -/
structure Kept (s t : State) : Prop where
  b0 : t.b0 = s.b0
  len : t.len = s.len
  kind : t.kind = s.kind
  stale : t.stale = s.stale
  src : t.src = s.src
  srcSilent : t.srcSilent = s.srcSilent
  buf : ∀ a, s.len.toNat ≤ a → t.buf.read a = s.buf.read a

theorem skipOne_kept (s : State) : Kept s (skipOne s) := by
  by_cases h : s.rem = 1
  · rw [skipOne_last h]
    constructor <;> simp
  · rw [skipOne_more h]
    constructor <;> simp

theorem Kept.count {s t : State} {a : Answer} (h : Kept (s.count a) t) : Kept s t := by
  obtain ⟨h1, h2, h3, h4, h5, h6, h7⟩ := h
  constructor <;> simp_all

/-- Every transition from an active state is a next state, again active, or IDLE with an item; and it keeps what `Kept` says. -/
theorem onAnswer_active (a : Answer) {s : State} (h : s.Active) :
    ∃ t, onAnswer p a s = .next t ∧ (t.Active ∨ (t.st = .idle ∧ t.item ≠ none)) ∧ Kept s t := by
  rcases h with ⟨hst, hlt⟩ | hst
  · have hl := s.len.isLt
    cases a with
    | fin =>
      refine ⟨_, onAnswer_payload _ hst, by simp, ?_⟩
      constructor <;> simp
    | byte b =>
      refine ⟨_, onAnswer_payload_byte b hst (by simp [Config.bufSize]; omega), ?_⟩
      by_cases hlast : s.idx + 1 = s.len
      · rw [acceptByte_last b (by simpa using hlast)]
        refine ⟨by simp, ?_⟩
        constructor <;> try simp
        intro a ha
        exact Memory.read_write_other _ _ (by omega)
      · rw [acceptByte_more b (by simpa using hlast)]
        refine ⟨.inl (.inl ⟨by simpa using hst, ?_⟩), ?_⟩
        · have h1 := idx_succ_toNat hlt
          have h2 : s.idx.toNat + 1 ≠ s.len.toNat := fun h => hlast (BitVec.eq_of_toNat_eq (by omega))
          simp only [State.storeByte_idx, State.count_idx, State.storeByte_len, State.count_len, h1]
          omega
        · constructor <;> try simp
          intro a ha
          exact Memory.read_write_other _ _ (by omega)
    | err e =>
      refine ⟨_, onAnswer_payload _ hst, ?_⟩
      unfold payloadError
      split
      · refine ⟨by simp, ?_⟩
        constructor <;> simp
      · refine ⟨.inl (.inr rfl), ?_⟩
        constructor <;> simp
  · refine ⟨_, onAnswer_skip _ hst, ?_⟩
    have hskip : ∀ u : State, u.st = .skip →
        ((skipOne u).Active ∨ ((skipOne u).st = .idle ∧ (skipOne u).item ≠ none)) := by
      intro u hu
      by_cases h1 : u.rem = 1
      · rw [skipOne_last h1]
        simp
      · rw [skipOne_more h1]
        exact .inl (.inr (by simpa using hu))
    cases a with
    | fin =>
      rw [onSkip, State.report_eq_emit]
      refine ⟨by simp, ?_⟩
      constructor <;> simp
    | byte b => exact ⟨hskip _ (by simpa using hst), (skipOne_kept _).count⟩
    | err e => exact ⟨hskip _ (by simpa using hst), (skipOne_kept _).count⟩

/-- A run from an active state always comes to a next state; on a source that answers every pull it ends in IDLE with an item. -/
theorem run_active (as : List Answer) {s : State} (h : s.Active) :
    ∃ t, run p as s = .next t ∧ (s.srcSilent = false → t.st = .idle ∧ t.item ≠ none) := by
  induction as generalizing s with
  | nil =>
    cases hs : s.srcSilent with
    | true => exact ⟨s.withSrc [], by simp [run, hs], by simp⟩
    | false =>
      obtain ⟨t, ht, hidle, -⟩ := onAnswer_active (p := p) .fin (h.withSrc [])
      obtain ⟨i, hi⟩ := onAnswer_fin (p := p) (h.withSrc []).ne_idle
      rw [hi] at ht
      injection ht with ht
      subst ht
      exact ⟨_, by simpa [run, hs] using hi, by simp⟩
  | cons a as ih =>
    obtain ⟨t, ht, hidle | ⟨hidle, hitem⟩, hk⟩ := onAnswer_active (p := p) a (h.withSrc (sourceAfter p a as))
    · obtain ⟨u, hu, hu'⟩ := ih hidle
      refine ⟨u, (run_cons_more ht hidle.ne_idle).trans hu, fun hs => hu' ?_⟩
      rw [hk.srcSilent]
      exact hs
    · exact ⟨t, run_cons_idle ht hidle, fun _ => ⟨hidle, hitem⟩⟩

end Sys2Proof.Machine
end

