-- ==== Sys2Proof/Laws/Meaning.lean ====
section
/-! SUPPORT. The eight meanings over the one shared operation, and the start of an operation from rest. -/

namespace Sys2Proof.Machine

/-- Every instruction is the header transition with its own length and kind, at the hardware's parameters (R158, R173). -/
theorem exec_eq_execHeader (i : Instr) (s : State) : exec i s = execHeader Config.hardware i.length i.kind s := by
  cases i <;> rfl

/-- No 13-bit length is above the hardware's ceiling (R8). -/
theorem length_le_hardware (l : U13) : l.toNat ≤ Config.hardware.maxPayload := by
  have := l.isLt
  simp only [Config.hardware]
  omega

/-- The header transition leads to an active state, or to IDLE with an item. -/
theorem acceptHeader_active (p : Params) (l : U13) (k : Kind) (s : State) :
    (acceptHeader p l k s).Active ∨ ((acceptHeader p l k s).st = .idle ∧ (acceptHeader p l k s).item ≠ none) := by
  obtain ⟨-, h⟩ | ⟨-, -, h⟩ | ⟨-, hl, h⟩ := acceptHeader_cases p l k s
  · exact .inl (.inr (by simp [h]))
  · exact .inr (by simp [h])
  · refine .inl (.inl (by
      have : 0 < l.toNat := Nat.pos_of_ne_zero (fun h0 => hl (BitVec.eq_of_toNat_eq h0))
      simpa [h] using this))

/-- With no abandoned pull there is nothing to ignore. -/
theorem flushStale_fresh (p : Params) {s : State} (h : s.stale = 0) : flushStale p s.src s = s := by
  cases hs : s.src with
  | nil =>
    have hw : s.withSrc [] = s := by rw [← hs]; rfl
    unfold flushStale
    rw [hw]
    split
    · rfl
    · cases s
      simp_all [ignoreAllStale]
  | cons a as =>
    unfold flushStale
    rw [if_pos h, ← hs]
    rfl

/-- From rest, the operation begins with `next` accepted and the pull for header byte 0 (R152). -/
theorem fetch_idle (p : Params) {s : State} (hst : s.st = .idle) (h : s.stale = 0) :
    fetch p s = fetchFirst p s.acceptNext := by
  have hb : blocked s = false := by simp [blocked, State.srcReq, hst]
  have hc : commanded s = s.acceptNext := by simp [commanded, hst]
  have hf : s.acceptNext.stale = 0 := h
  rw [fetch, hb, hc, flushStale_fresh p hf]
  simp [fetchFrom, h]

/-- The same start for the run of the transitions alone. -/
theorem decNext_idle (p : Params) {s : State} (hst : s.st = .idle) (h : s.stale = 0) :
    decNext p s = run p s.src s.acceptNext := by
  have hb : blocked s = false := by simp [blocked, State.srcReq, hst]
  have hc : commanded s = s.acceptNext := by simp [commanded, hst]
  have hf : s.acceptNext.stale = 0 := h
  rw [decNext, hb, hc, flushStale_fresh p hf]
  simp [resume, h]

end Sys2Proof.Machine
end

