-- ==== Sys2Proof/Laws/PerInstr.lean ====
section
/-! SUPPORT. Facts about every instruction as syntax, one lemma per constructor. -/

namespace Sys2Proof.Laws.HeaderForm

/-- Every instruction is well formed (R85), is the table row of its own type code and length (R89), and is written in two bytes
(`HDR_BYTES`, R7). -/
def Statement (i : Instr) : Prop :=
  i.wellFormed = true ∧ instrOfType i.typeCode i.length = i ∧ (encode i).length = Config.hdrBytes

theorem length_in_range (l : U13) : decide (l.toNat ≤ Config.lenMax) = true :=
  decide_eq_true (Nat.le_of_lt_succ l.isLt)

theorem unknown0 (l : U13) : Statement (.unknown0 l) := ⟨length_in_range l, rfl, rfl⟩

theorem speakingStart (l : U13) : Statement (.speakingStart l) := ⟨length_in_range l, rfl, rfl⟩

theorem audio (l : U13) : Statement (.audio l) := ⟨length_in_range l, rfl, rfl⟩

theorem unknown3 (l : U13) : Statement (.unknown3 l) := ⟨length_in_range l, rfl, rfl⟩

theorem unknown4 (l : U13) : Statement (.unknown4 l) := ⟨length_in_range l, rfl, rfl⟩

theorem unknown5 (l : U13) : Statement (.unknown5 l) := ⟨length_in_range l, rfl, rfl⟩

theorem unknown6 (l : U13) : Statement (.unknown6 l) := ⟨length_in_range l, rfl, rfl⟩

theorem unknown7 (l : U13) : Statement (.unknown7 l) := ⟨length_in_range l, rfl, rfl⟩

end Sys2Proof.Laws.HeaderForm
end

