-- ==== Sys2Proof/Laws/Units.lean ====
section
/-! SUPPORT. The `ok` flags of the pure units as comparisons of numbers, and the header word as a number. -/

namespace Sys2Proof.Machine

@[simp] theorem hdrPackOk_iff (n : Nat) : hdrPackOk n = true ↔ n ≤ 8191 :=
  ⟨fun h => of_decide_eq_true h, fun h => decide_eq_true h⟩

@[simp] theorem ssParseOk_iff (n : Nat) : ssParseOk n = true ↔ n = 16 :=
  ⟨fun h => of_decide_eq_true h, fun h => decide_eq_true h⟩

@[simp] theorem auParseOk_iff (n : Nat) : auParseOk n = true ↔ 10 ≤ n :=
  ⟨fun h => of_decide_eq_true h, fun h => decide_eq_true h⟩

/-- Masking the low bits of a number is taking a remainder (for R84's `& 0x07` and R112's `& 0x1F`). -/
theorem and_low_bits (n k : Nat) : n &&& (2 ^ k - 1) = n % 2 ^ k := Nat.and_two_pow_sub_one_eq_mod n k

/-- Bits put below a shifted number add up with it (for the packing of R82 and R112). -/
theorem shift_or_low (n k b : Nat) (h : b < 2 ^ k) : n <<< k ||| b = n * 2 ^ k + b := by
  rw [← Nat.shiftLeft_add_eq_or_of_lt h, Nat.shiftLeft_eq]

/-- One byte more of a big-endian value (R12). -/
theorem beNat_append (s t : List Byte) : beNat (s ++ t) = beNat s * 2 ^ (8 * t.length) + beNat t := by
  induction s with
  | nil => simp [beNat]
  | cons b s ih =>
    have hp : 2 ^ (8 * (s.length + t.length)) = 2 ^ (8 * s.length) * 2 ^ (8 * t.length) := by
      rw [Nat.mul_add, Nat.pow_add]
    simp only [List.cons_append, beNat, List.length_append, ih, hp, Nat.add_mul, Nat.mul_assoc, Nat.add_assoc]

end Sys2Proof.Machine
end

