-- ==== Sys2Proof/Tests/Slice0.lean ====
section
/-! SUPPORT. The model's own tests. Expected values come from spec/: the worked examples and vectors of 95_test_vectors.md (L1-1 to V73, P2, P4),
the examples in the operation rules, the trace of R186, or a word written out from R81 and R89. One step or one transition each. -/

namespace Sys2Proof.Tests

open Sys2Proof.Machine

/-- Source elements from byte values. -/
def bytesOf (l : List Nat) : List Answer := l.map fun n => .byte (BitVec.ofNat 8 n)

/-- A decoder newly bound to a source that gives these elements and then END. -/
def boundTo (l : List Answer) : State := State.bound l false

/-- The item of one step. -/
def itemAfter (s : State) : Option Item :=
  match step s with
  | .next t => t.item
  | .fault _ => none
  | .refused _ => none

/-- The advance of `POS`, the pulls made and the elements left, of one operation under a ceiling. -/
def countsAfter (p : Params) (s : State) : Option (Nat × Nat × Nat) :=
  match decNext p s with
  | .next t => some (t.pos - s.pos, t.pulls - s.pulls, t.src.length)
  | .fault _ => none
  | .refused _ => none

/-- The item of one operation under a ceiling. -/
def itemUnder (maxPayload : Nat) (s : State) : Option Item :=
  match decNext { maxPayload := maxPayload, srcFused := true } s with
  | .next t => t.item
  | .fault _ => none
  | .refused _ => none

/-- The payload of V44 and V56: snowflake 42, sequence 7. -/
def audio42 : List Nat := [0, 0, 0, 0, 0, 0, 0, 0x2A, 0, 7]

/-! ## Well-formedness: an ill-formed term for each check -/

theorem packet_wellFormed_of_length {d : List Byte} {n : Nat} (h : d.length = n) :
    (Packet.audio 0 0 d).wellFormed = decide (n < 65536) := by subst h; rfl

theorem test_wf_packet_too_long : (Packet.audio 0 0 (List.replicate 65536 0)).wellFormed = false :=
  (packet_wellFormed_of_length List.length_replicate).trans (by decide)

theorem test_wf_packet_longest : (Packet.audio 0 0 (List.replicate 65535 0)).wellFormed = true :=
  (packet_wellFormed_of_length List.length_replicate).trans (by decide)

theorem test_wf_pack_length_refused : (Op.hdrPack 1 131072).wellFormed = false := by decide

theorem test_wf_pack_length : (Op.hdrPack 2 131071).wellFormed = true := by decide

theorem ser_wellFormed_of_length {d : List Byte} {n : Nat} (h : d.length = n) :
    (Op.auSer 0 0 d).wellFormed = decide (n < 65536) := by subst h; rfl

theorem test_wf_ser_data_refused : (Op.auSer 0 0 (List.replicate 65536 0)).wellFormed = false :=
  (ser_wellFormed_of_length List.length_replicate).trans (by decide)

theorem test_wf_encode_packet_refused : (Op.encEncode (.audio 0 0 (List.replicate 65536 0))).wellFormed = false :=
  test_wf_packet_too_long

theorem test_wf_params_refused : (Params.mk 8192 true).wellFormed = false := by decide

theorem test_wf_hardware : Config.hardware.wellFormed = true := by decide

theorem test_size_law_speaking_start : (Instr.speakingStart 15).sizeLegal = false ∧ (Instr.speakingStart 16).sizeLegal = true := by decide

theorem test_size_law_audio : (Instr.audio 9).sizeLegal = false ∧ (Instr.audio 10).sizeLegal = true := by decide

/-- There is no ill-formed header (R85). -/
theorem test_wf_every_instruction (i : Instr) : i.wellFormed = true := decide_eq_true (Nat.le_of_lt_succ i.length.isLt)

/-! ## Decoding: words written out bit by bit, `length[12:5]`, then `length[4:0] type[2:0]` (R81) -/

theorem test_decode_unknown0 : decode [0b00000000, 0b11111000] = .ok (.unknown0 31, []) := by decide

theorem test_decode_speaking_start : decode [0b00000000, 0b10000001] = .ok (.speakingStart 16, []) := by decide

theorem test_decode_audio : decode [0b00000000, 0b01110010, 0xAA] = .ok (.audio 14, [0xAA]) := by decide

theorem test_decode_unknown3 : decode [0b00000000, 0b00100011] = .ok (.unknown3 4, []) := by decide

theorem test_decode_unknown4 : decode [0b00010010, 0b00110100] = .ok (.unknown4 582, []) := by decide

theorem test_decode_unknown5 : decode [0b10101011, 0b11001101] = .ok (.unknown5 5497, []) := by decide

theorem test_decode_unknown6 : decode [0b00000001, 0b00000110] = .ok (.unknown6 32, []) := by decide

theorem test_decode_unknown7 : decode [0b11111111, 0b11111111] = .ok (.unknown7 8191, []) := by decide

theorem test_decode_too_short : decode [] = .error .noHeaderByte ∧ decode [0x00] = .error .oneHeaderByteOnly := by decide

theorem test_decode_table_word : decodeTableWord 16 0x0081 = some (.speakingStart 16) ∧
    decodeTableWord 16 0xFFFA = some (.audio 8191) := by decide

/-- No two rows of R89's table overlap. -/
theorem test_table_rows_disjoint : typeTable.Pairwise (fun a b => a.mask = b.mask ∧ a.pattern ≠ b.pattern) := by decide

theorem test_encode_audio : encode (.audio 255) = [0x07, 0xFA] := by decide

/-! ## The pure units (V10, V12, V18, V22, V24, V25, V28, V31, V33, V36, V38, V41, V44) -/

theorem test_hdr_unpack : hdrUnpack 0x12 0x34 = (582, .unknown) ∧ hdrUnpack 0xFF 0xF9 = (8191, .ss) := by decide

theorem test_hdr_pack : hdrPack 2 32 = some (0x01, 0x02) ∧ hdrPack 5 1000 = some (0x1F, 0x45) := by decide

theorem test_hdr_pack_overflow : hdrPack 2 8191 = some (0xFF, 0xFA) ∧ hdrPack 2 8192 = none := by decide

theorem test_ss_parse : ssParse [0x01, 0x23, 0x45, 0x67, 0x89, 0xAB, 0xCD, 0xEF, 0xFE, 0xDC, 0xBA, 0x98, 0x76, 0x54, 0x32, 0x10] =
    some (0x0123456789ABCDEF, 0xFEDCBA9876543210) := by decide

theorem test_ss_parse_size : ssParse (List.replicate 15 0) = none ∧ ssParse (List.replicate 17 0) = none := by decide

theorem test_ss_ser : ssSer 1 256 = [0, 0, 0, 0, 0, 0, 0, 1, 0, 0, 0, 0, 0, 0, 1, 0] := by decide

theorem test_au_parse : auParse [0, 0, 0, 0, 0, 0, 0, 0, 1, 0, 0] = some (0, 256, 1, [0]) := by decide

theorem test_au_parse_size : auParse (List.replicate 9 0xFF) = none ∧
    auParse (List.replicate 10 0xFF) = some (0xFFFFFFFFFFFFFFFF, 0xFFFF, 0, []) := by decide

theorem test_au_ser : auSer 42 7 [0xDE, 0xAD, 0xBE, 0xEF] =
    [0, 0, 0, 0, 0, 0, 0, 0x2A, 0, 7, 0xDE, 0xAD, 0xBE, 0xEF] := by decide

theorem test_encode_speaking_start : encEncode (.speakingStart 1 256) =
    some [0x00, 0x81, 0, 0, 0, 0, 0, 0, 0, 1, 0, 0, 0, 0, 0, 0, 1, 0] := by decide

theorem test_encode_shortest_audio : encEncode (.audio 42 7 []) = some [0x00, 0x52, 0, 0, 0, 0, 0, 0, 0, 0x2A, 0, 7] := by decide

/-! ## The instructions, as the first step on a newly bound source -/

/-- R174's example. -/
theorem test_speaking_start_packet :
    itemAfter (boundTo (bytesOf [0x00, 0x81, 0, 0, 0, 0, 0, 0, 0, 1, 0, 0, 0, 0, 0, 0, 1, 0])) =
      some (.packet (.speakingStart 1 256)) := by decide

/-- V54: `hdr(1, 5)`, five bytes consumed, the two behind them left. -/
theorem test_speaking_start_wrong_size :
    itemAfter (boundTo (bytesOf [0x00, 0x29, 1, 2, 3, 4, 5, 0, 0])) = some (.error .illegalSizedObject) ∧
    countsAfter Config.hardware (boundTo (bytesOf [0x00, 0x29, 1, 2, 3, 4, 5, 0, 0])) = some (7, 7, 2) := by decide

/-- R175's example. -/
theorem test_audio_packet :
    itemAfter (boundTo (bytesOf ([0x00, 0x72] ++ audio42 ++ [0xDE, 0xAD, 0xBE, 0xEF]))) =
      some (.packet (.audio 42 7 [0xDE, 0xAD, 0xBE, 0xEF])) := by decide

/-- V55: `n = 9`. -/
theorem test_audio_too_short :
    itemAfter (boundTo (bytesOf ([0x00, 0x4A] ++ List.replicate 9 9))) = some (.error .illegalSizedObject) := by decide

/-- V53: type 0, no payload. -/
theorem test_unknown0 : itemAfter (boundTo (bytesOf [0x00, 0x00])) = some (.error .unknownKind) := by decide

/-- L1-6, R176's example: type 3, four payload bytes consumed. -/
theorem test_unknown3 : itemAfter (boundTo (bytesOf [0x00, 0x23, 0xAA, 0xBB, 0xCC, 0xDD])) = some (.error .unknownKind) ∧
    countsAfter Config.hardware (boundTo (bytesOf [0x00, 0x23, 0xAA, 0xBB, 0xCC, 0xDD])) = some (6, 6, 0) := by decide

/-- R176: type 4, one payload byte consumed. -/
theorem test_unknown4 : itemAfter (boundTo (bytesOf [0x00, 0x0C, 7])) = some (.error .unknownKind) := by decide

/-- P2, operation 1: type 5, two payload bytes. -/
theorem test_unknown5 : itemAfter (boundTo (bytesOf [0x00, 0x15, 0xEE, 0xFF])) = some (.error .unknownKind) := by decide

/-- R176: type 6, no payload. -/
theorem test_unknown6 : itemAfter (boundTo (bytesOf [0x00, 0x06])) = some (.error .unknownKind) := by decide

/-- R176: type 7, no payload. -/
theorem test_unknown7 : itemAfter (boundTo (bytesOf [0x00, 0x07])) = some (.error .unknownKind) := by decide

/-- L1-4: thirteen of fourteen payload bytes, `UnexpectedTermination` and no packet; 16 pulls. -/
theorem test_audio_truncated :
    itemAfter (boundTo (bytesOf [0x00, 0x72, 1, 2, 3, 4, 5, 6, 7, 8, 9, 10, 11, 12, 13])) = some (.error .unexpectedTermination) ∧
    countsAfter Config.hardware (boundTo (bytesOf [0x00, 0x72, 1, 2, 3, 4, 5, 6, 7, 8, 9, 10, 11, 12, 13])) = some (15, 16, 0) := by
  decide

/-- V59: an error at the last payload byte outranks the unknown kind, and nothing is skipped. -/
theorem test_error_at_last_payload_byte :
    itemAfter (boundTo (bytesOf [0x00, 0x23, 1, 2, 3] ++ [.err 9] ++ bytesOf [0, 0])) = some (.error (.transport 9)) ∧
    countsAfter Config.hardware (boundTo (bytesOf [0x00, 0x23, 1, 2, 3] ++ [.err 9] ++ bytesOf [0, 0])) = some (6, 6, 2) := by decide

/-- P2, operation 3: the second error is swallowed and counted, the packet behind is left whole. -/
theorem test_skip_swallows_errors :
    itemAfter (boundTo (bytesOf [0x00, 0x5A, 0x11] ++ [.err 7] ++ bytesOf [0x33] ++ [.err 8] ++ bytesOf [0, 0, 0, 0, 0, 0, 0, 0xAA])) =
      some (.error (.transport 7)) ∧
    countsAfter Config.hardware
        (boundTo (bytesOf [0x00, 0x5A, 0x11] ++ [.err 7] ++ bytesOf [0x33] ++ [.err 8] ++ bytesOf [0, 0, 0, 0, 0, 0, 0, 0xAA])) =
      some (13, 13, 1) := by decide

/-- V68: END inside a skip reports the latched error; 7 pulls. -/
theorem test_end_in_skip :
    itemAfter (boundTo (bytesOf [0x00, 0x81, 1] ++ [.err 3] ++ bytesOf [4, 5])) = some (.error (.transport 3)) ∧
    countsAfter Config.hardware (boundTo (bytesOf [0x00, 0x81, 1] ++ [.err 3] ++ bytesOf [4, 5])) = some (6, 7, 0) := by decide

/-- V48, V49, V50: the header's own failures. -/
theorem test_header_failures :
    itemAfter (boundTo (bytesOf [0x00])) = some (.error .unexpectedTermination) ∧
    itemAfter (boundTo ([.err 5] ++ bytesOf [0x00, 0x81])) = some (.error (.transport 5)) ∧
    itemAfter (boundTo (bytesOf [0x00] ++ [.err 6] ++ bytesOf [0x00, 0x23])) = some (.error (.transport 6)) := by decide

/-- V47: the empty source. -/
theorem test_clean_end : itemAfter State.reset = some .endOfStream ∧ countsAfter Config.hardware State.reset = some (0, 1, 0) := by
  decide

/-- V66, V65, V61 shortened: the ceiling lowered (R8). -/
theorem test_lowered_ceiling :
    itemUnder 0 (boundTo (bytesOf [0x00, 0x0B, 0x99, 0, 0])) = some (.error .illegalSize) ∧
    itemUnder 0 (boundTo (bytesOf [0x00, 0x03])) = some (.error .unknownKind) ∧
    countsAfter { maxPayload := 0, srcFused := true } (boundTo (bytesOf [0x00, 0x0B, 0x99, 0, 0])) = some (3, 3, 2) ∧
    itemUnder 32 (boundTo (bytesOf [0x01, 0x41, 0, 1, 2])) = some (.error .illegalSize) := by decide

/-! ## Single transitions, from the traces of R186, P2 and P4 -/

/-- R186, row 3. -/
theorem test_trace_header_complete :
    decStep Config.hardware { State.reset with st := .hdr1, b0 := 0x00, pos := 1 } (.rsp (.byte 0x23)) =
      .next { State.reset with st := .payload, b0 := 0x00, len := 4, kind := .unknown, idx := 0, pos := 2, pulls := 1 } := rfl

/-- R186, row 7. -/
theorem test_trace_last_payload_byte :
    decStep Config.hardware { State.reset with st := .payload, len := 4, idx := 3, buf := [(0, 0xAA), (1, 0xBB), (2, 0xCC)], pos := 5 }
        (.rsp (.byte 0xDD)) =
      .next { State.reset with
        st := .idle, len := 4, idx := 4, buf := [(0, 0xAA), (1, 0xBB), (2, 0xCC), (3, 0xDD)], pos := 6, pulls := 1,
        item := some (.error .unknownKind) } := rfl

/-- P2, row 18. -/
theorem test_trace_payload_error :
    decStep Config.hardware { State.reset with st := .payload, len := 11, kind := .au, idx := 1, pos := 14 } (.rsp (.err 7)) =
      .next { State.reset with
        st := .skip, len := 11, kind := .au, idx := 1, rem := 9, pend := .transport, perr := 7, pos := 15, pulls := 1 } := rfl

/-- P2, row 20. -/
theorem test_trace_swallowed_error :
    decStep Config.hardware { State.reset with st := .skip, rem := 8, pend := .transport, perr := 7, pos := 16 } (.rsp (.err 8)) =
      .next { State.reset with st := .skip, rem := 7, pend := .transport, perr := 7, pos := 17, pulls := 1 } := rfl

/-- P4, row 3: the ceiling at 32. -/
theorem test_trace_oversized :
    decStep { maxPayload := 32, srcFused := true } { State.reset with st := .hdr1, b0 := 0x01, pos := 1 } (.rsp (.byte 0x41)) =
      .next { State.reset with
        st := .skip, b0 := 0x01, len := 40, kind := .ss, idx := 0, rem := 40, pend := .illegalSize, pos := 2, pulls := 1 } := rfl

/-- A silent source: the decoder waits with `next` accepted, and has no step after that (R185). -/
theorem test_silent_source :
    step (State.bound [] true) = .next { State.bound [] true with st := .hdr0 } ∧
    step { State.bound [] true with st := .hdr0 } = .fault .pullUnanswered := ⟨rfl, rfl⟩

/-- After END a fused source offered a byte still answers END (R36, R184); one that is not fused answers the byte (R36). -/
theorem test_sticky_end :
    State.pullAnswer Config.hardware ((boundTo []).offer Config.hardware [.byte 7]) = some (.fin, []) ∧
    State.pullAnswer Config.hardware ((State.bound [.fin] true).offer Config.hardware [.byte 7]) = some (.fin, [.fin, .byte 7]) ∧
    State.pullAnswer { maxPayload := 8191, srcFused := false } ((boundTo []).offer { maxPayload := 8191, srcFused := false } [.byte 7]) =
      some (.byte 7, []) ∧
    State.pullAnswer Config.hardware ((State.bound [] true).offer Config.hardware [.byte 7]) = some (.byte 7, []) := by decide

/-- One pull at a time (R186, rows 2 and 3). -/
theorem test_pull_step :
    pullStep Config.hardware { boundTo (bytesOf [0x00, 0x23]) with st := .hdr0 } =
      .next { boundTo (bytesOf [0x23]) with st := .hdr1, b0 := 0x00, pos := 1, pulls := 1 } ∧
    pullStep Config.hardware { State.bound [] true with st := .hdr0 } = .fault .pullUnanswered := ⟨rfl, rfl⟩

/-- The answer of a pull that a reset abandoned is ignored, and the element behind it is header byte 0 (R251). -/
theorem test_abandoned_pull_ignored :
    itemAfter (State.assertRst { boundTo (bytesOf [0x99, 0x00, 0x03]) with st := .payload, len := 5 }) =
      some (.error .unknownKind) := by decide

/-- A word placed for the next step, from reset: the instruction runs, its payload missing. -/
theorem test_fetch_word : itemAfter (State.reset.withFetchWord 16 0x0072) = some (.error .unexpectedTermination) ∧
    itemAfter (State.reset.withFetchWord 16 0x0005) = some (.error .unknownKind) := by decide

/-- `BUF` stays canonical: a zero byte is not listed. -/
theorem test_memory_canonical :
    Memory.write [(0, 1), (2, 3)] 1 2 = [(0, 1), (1, 2), (2, 3)] ∧ Memory.write [(0, 1), (2, 3)] 2 0 = [(0, 1)] ∧
    Memory.wf [(0, 1), (2, 3)] = true ∧ Memory.wf [(2, 3), (0, 1)] = false ∧ Memory.wf [(8191, 1)] = false := by decide

/-! ## Witnesses: for every statement with hypotheses, terms that meet them together, each clause at a boundary of its range -/

/-- HeaderWordSelectsOneTableRow: a word is of a row. -/
theorem witness_table_row : ∃ r ∈ typeTable, headerWord 0xFF 0xFA &&& r.mask = r.pattern := by decide

/-- HdrPackFormula, HeaderPackUnpackSymmetry: the two sides of the ceiling, and a tag outside 1 and 2. -/
theorem witness_pack : 8191 < 8192 ∧ 8191 ≤ 8191 ∧ (0 : U3) ≠ 1 ∧ (0 : U3) ≠ 2 := by decide

/-- BigEndianInverse: the largest two-byte value. -/
theorem witness_big_endian : 65535 < 2 ^ (8 * 2) := by decide

/-- SsParseFields, SsParseSerInverse: lengths 15, 16 and 17. -/
theorem witness_ss_parse : (List.replicate 15 (0 : Byte)).length ≠ 16 ∧ (List.replicate 17 (0 : Byte)).length ≠ 16 ∧
    (List.replicate 16 (0 : Byte)).length = 16 := by decide

/-- AuParseFields, AuParseSerInverse: lengths 9 and 10. -/
theorem witness_au_parse : (List.replicate 9 (0 : Byte)).length < 10 ∧ 10 ≤ (List.replicate 10 (0 : Byte)).length := by decide

/-- EncodeOutcome: 8181 and 8182 data bytes. -/
theorem witness_encode : 8181 < (List.replicate 8182 (0xAA : Byte)).length ∧ (List.replicate 8181 (0xAA : Byte)).length ≤ 8181 := by
  rw [List.length_replicate, List.length_replicate]
  decide

/-- EncoderOutputsAreTheWellFormedPackets: a packet that encodes, to the shortest Audio output. -/
theorem witness_encoded_packet : ∃ out, encEncode (.audio 42 7 []) = some out ∧ out.length = 12 := ⟨_, rfl, rfl⟩

/-- StatelessOperationsKeepState. -/
theorem witness_stateless : Op.hdrUnpack 0 0 ≠ .decNext := by decide

/-- NextAcceptedOnlyInIdle: a state in IDLE and one outside it. -/
theorem witness_next : State.reset.st = .idle ∧ { State.reset with st := .skip }.st ≠ .idle := by decide

/-- HeaderByteZeroTransitions. -/
theorem witness_hdr0 : { State.reset with st := .hdr0 }.st = .hdr0 ∧ { State.reset with st := .hdr0 }.stale = 0 := by decide

/-- HeaderByteOneFailures, HeaderCompleteBranches: lengths 0, 8191 within the ceiling and 8191 above a ceiling of 8190. -/
theorem witness_hdr1 : { State.reset with st := .hdr1, b0 := 0xFF }.st = .hdr1 ∧
    { State.reset with st := .hdr1, b0 := 0xFF }.stale = 0 ∧
    hdrUnpack { State.reset with st := .hdr1, b0 := 0xFF }.b0 0xFA = (8191, .au) ∧ (8191 : U13).toNat ≤ 8191 ∧ (8191 : U13) ≠ 0 ∧
    8190 < (8191 : U13).toNat ∧
    hdrUnpack { State.reset with st := .hdr1 }.b0 0x01 = (0, .ss) ∧ (0 : U13).toNat ≤ 0 := by decide

/-- PayloadTransitions: not the last byte, and the last byte of the longest payload. -/
theorem witness_payload : { State.reset with st := .payload, len := 8191, idx := 8190 }.stale = 0 ∧
    (8190 : U13).toNat < (8191 : U13).toNat ∧ (8190 : U13).toNat + 1 = (8191 : U13).toNat ∧
    (0 : U13).toNat < (8191 : U13).toNat ∧ (0 : U13).toNat + 1 ≠ (8191 : U13).toNat := by decide

/-- SkipTransitions: one pull owed and two, a byte and an error. -/
theorem witness_skip : { State.reset with st := .skip, rem := 1 }.st = .skip ∧ { State.reset with st := .skip, rem := 1 }.stale = 0 ∧
    1 ≤ (1 : U13).toNat ∧ (2 : U13) ≠ 1 ∧ (Answer.byte 0).isElement = true ∧ (Answer.err 0).isElement = true := by decide

/-- A state in PAYLOAD that satisfies the invariant. -/
theorem witness_inv_payload : Inv Config.hardware { State.reset with st := .payload, len := 16, idx := 15, buf := [(0, 1)] } := by
  constructor <;> decide

/-- A state in SKIP that satisfies the invariant. -/
theorem witness_inv_skip : Inv Config.hardware { State.reset with st := .skip, rem := 1, pend := .transport } := by
  constructor <;> decide

/-- TransitionsTotalOnEnabledEvents, TransitionsKeepInvariant: such a state has a transition on a byte. -/
theorem witness_transition : ∃ t, decStep Config.hardware { State.reset with st := .skip, rem := 1, pend := .transport } (.rsp (.byte 0)) =
    .next t ∧ t.item ≠ none := ⟨_, rfl, by decide⟩

/-- StepKeepsInvariant, StepStopsOnlyOnSilence: from such a state a step answers a next state; and a blocked one. -/
theorem witness_step_from_skip : (∃ t, step { State.reset with st := .skip, rem := 1, pend := .transport } = .next t) ∧
    blocked { State.reset with st := .skip, rem := 1, pend := .transport } = false ∧
    blocked { State.reset with st := .skip, rem := 1, pend := .transport, srcSilent := true } = true := ⟨⟨_, rfl⟩, by decide, by decide⟩

/-- ResetAbandonsTheOperation: a state with a pull outstanding and no abandoned one, and one without. -/
theorem witness_reset : { State.reset with st := .hdr1 }.srcReq = true ∧ { State.reset with st := .hdr1 }.stale = 0 ∧
    State.reset.srcReq = false := by decide

/-- ReachableStatesSatisfyInvariant: a reachable state in SKIP, under the hardware's parameters. -/
theorem witness_reachable : ∃ s, Reachable Config.hardware s ∧ s.st = .skip :=
  ⟨_, .move (State.bound (bytesOf [0x00, 0x81] ++ [.err 3]) true) _ (.bound _ _) (.op _ _ rfl), rfl⟩

/-- OnceEndAlwaysEnd: END next in the list, and the list used up for good; and a move from there. -/
theorem witness_at_end : State.pullAnswer Config.hardware (boundTo [.fin, .byte 1]) = some (.fin, [.fin, .byte 1]) ∧
    State.pullAnswer Config.hardware (boundTo []) = some (.fin, []) ∧
    Moves Config.hardware (boundTo []) ((boundTo []).offer Config.hardware [.byte 1]) := ⟨rfl, rfl, .more _ _ .none (.offer _ _)⟩

/-- SpeakingStartOnCompletePayload, BufferAfterCompletePayload: 16 bytes, and none. -/
theorem witness_speaking_start : (boundTo (bytesOf (List.replicate 16 1) ++ [.err 2])).src = byteAnswers (List.replicate 16 1) ++ [.err 2] ∧
    (List.replicate 16 (1 : Byte)).length = (16 : U13).toNat ∧ (0 : U13) ≠ 16 ∧ ([] : List Byte).length = (0 : U13).toNat := by decide

/-- AudioOnCompletePayload: 10 bytes, and 9. -/
theorem witness_audio : (boundTo (bytesOf (List.replicate 10 1))).src = byteAnswers (List.replicate 10 1) ++ [] ∧
    (List.replicate 10 (1 : Byte)).length = (10 : U13).toNat ∧ 10 ≤ (10 : U13).toNat ∧
    (List.replicate 9 (1 : Byte)).length = (9 : U13).toNat ∧ (9 : U13).toNat < 10 := by decide

/-- UnknownOnCompletePayload: one byte, for a type code at each end. -/
theorem witness_unknown : (boundTo (bytesOf [7])).src = byteAnswers [7] ++ [] ∧ [(7 : Byte)].length = (1 : U13).toNat ∧
    Instr.unknown0 1 = .unknown0 1 ∧ Instr.unknown7 1 = .unknown7 1 := by decide

/-- ExhaustedPayloadIsUnexpectedTermination: 13 of 14 bytes on a source that runs out, and on one that says END. -/
theorem witness_exhausted : (boundTo (bytesOf (List.replicate 13 1))).src = byteAnswers (List.replicate 13 1) ++ [] ∧
    (boundTo (bytesOf (List.replicate 13 1))).srcSilent = false ∧
    (boundTo (bytesOf (List.replicate 13 1) ++ [.fin])).src = byteAnswers (List.replicate 13 1) ++ [.fin] ∧
    (List.replicate 13 (1 : Byte)).length < (Instr.audio 14).length.toNat := by decide

/-- PayloadErrorSkipsAndReportsFirstError: an error at byte 1 of 4 with two owed elements, one an error; and at the last byte. -/
theorem witness_payload_error : (boundTo (bytesOf [1] ++ [.err 7, .byte 0, .err 8])).src =
      byteAnswers [1] ++ .err 7 :: ([.byte 0, .err 8] ++ []) ∧
    (∀ a ∈ [Answer.byte 0, .err 8], a.isElement = true) ∧
    [(1 : Byte)].length + 1 + [Answer.byte 0, .err 8].length = (Instr.audio 4).length.toNat ∧
    [(1 : Byte)].length + 1 + ([] : List Answer).length = (Instr.unknown3 2).length.toNat := by decide

/-- ExhaustedSkipReportsLatchedError: V68's payload. -/
theorem witness_exhausted_skip : (boundTo (bytesOf [1] ++ [.err 3] ++ bytesOf [4, 5])).src =
      byteAnswers [1] ++ .err 3 :: ([.byte 4, .byte 5] ++ []) ∧
    (∀ a ∈ [Answer.byte 4, .byte 5], a.isElement = true) ∧
    (boundTo (bytesOf [1] ++ [.err 3] ++ bytesOf [4, 5])).srcSilent = false ∧
    [(1 : Byte)].length + 1 + [Answer.byte 4, .byte 5].length < (Instr.speakingStart 16).length.toNat := by decide

/-- InstructionFrame: an instruction that answers a next state without a transport error, and one that comes to wait in SKIP. -/
theorem witness_frame : (∃ t, exec (.audio 1) (boundTo (bytesOf [1])) = .next t ∧ t.st ≠ .skip ∧
      t.item = some (.error .illegalSizedObject)) ∧
    (∃ t, exec (.audio 3) (State.bound [.err 1] true) = .next t ∧ t.st = .skip) := ⟨⟨_, rfl, by decide, rfl⟩, ⟨_, rfl, rfl⟩⟩

/-- OversizedPacketIsSkipped: one element above a ceiling of 0. -/
theorem witness_oversized : (Params.mk 0 true).maxPayload < (1 : U13).toNat ∧ (boundTo [.err 1]).src = [.err 1] ++ [] ∧
    (∀ a ∈ [Answer.err 1], a.isElement = true) ∧ [Answer.err 1].length = (1 : U13).toNat := by decide

/-- HardwareNeverReportsIllegalSize: the longest header, from rest; and a skip that ends, by a step behind an abandoned pull and by a
transition. -/
theorem witness_no_illegal_size : (∃ t, step (boundTo (bytesOf [0xFF, 0xFF])) = .next t) ∧
    Inv Config.hardware { boundTo [.err 1, .byte 2] with st := .skip, rem := 1, pend := .transport, stale := 1 } ∧
    (∃ t, step { boundTo [.err 1, .byte 2] with st := .skip, rem := 1, pend := .transport, stale := 1 } = .next t ∧
      t.item = some (.error (.transport 0))) ∧
    (∃ t, decStep Config.hardware { State.reset with st := .skip, rem := 1, pend := .transport } (.rsp (.byte 2)) = .next t ∧
      t.item = some (.error (.transport 0))) ∧
    State.reset.item ≠ some (.error .illegalSize) :=
  ⟨⟨_, rfl⟩, by constructor <;> decide, ⟨_, rfl, rfl⟩, ⟨_, rfl, rfl⟩, by decide⟩

/-- OperationIsNextThenPulls: an operation from IDLE, and one resumed. -/
theorem witness_next_then_pulls : (∃ t, decNext Config.hardware (boundTo (bytesOf [0x00])) = .next t) ∧
    (∃ t, decNext Config.hardware { boundTo [] with st := .skip, rem := 2 } = .next t) := ⟨⟨_, rfl⟩, ⟨_, rfl⟩⟩

/-- StepRunsDecodedInstruction. -/
theorem witness_step_decodes : (boundTo (bytesOf [0x00, 0x52])).st = .idle ∧ (boundTo (bytesOf [0x00, 0x52])).stale = 0 ∧
    (boundTo (bytesOf [0x00, 0x52])).src = .byte 0x00 :: .byte 0x52 :: [] ∧ decode [0x00, 0x52] = .ok (.audio 10, []) := by decide

/-- A decoder at rest on any source that answers every pull: OperationIsSequentialProcedure, PullBounds, EndIsTerminal and the others on
whole operations. -/
theorem witness_ready (l : List Answer) : Ready (boundTo l) := ⟨rfl, rfl, rfl⟩

/-- Resynchronisation: a header of length 1 and its one element, an error. -/
theorem witness_resynchronisation : (boundTo [.byte 0x00, .byte 0x0B, .err 1, .byte 9]).src =
      .byte 0x00 :: .byte 0x0B :: ([.err 1] ++ [.byte 9]) ∧
    (∀ a ∈ [Answer.err 1], a.isElement = true) ∧ [Answer.err 1].length = (decodeHeader 0x00 0x0B).length.toNat := by decide

/-- PullBounds: a step from rest on a header of two bytes. -/
theorem witness_pull_bounds : ∃ t, step (boundTo (bytesOf [0x00, 0x03])) = .next t := ⟨_, rfl⟩

/-- EndIsTerminal, CleanEndOnlyAtAPacketBoundary: a step that delivers END, one that delivers `UnexpectedTermination`, and one whose skip
meets END after a transport error; and, the ceiling at 0, after `IllegalSize`. -/
theorem witness_end : (∃ t, step (boundTo []) = .next t ∧ t.item = some .endOfStream) ∧
    (∃ t, step (boundTo (bytesOf [0x00])) = .next t ∧ t.item = some (.error .unexpectedTermination)) ∧
    (∃ t, step (boundTo (bytesOf [0x00, 0x81] ++ [.err 3])) = .next t ∧ EndMet (boundTo (bytesOf [0x00, 0x81] ++ [.err 3])) t ∧
      t.item = some (.error (.transport 3))) ∧
    (∃ t, decNext { maxPayload := 0, srcFused := true } (boundTo (bytesOf [0x00, 0x81])) = .next t ∧
      EndMet (boundTo (bytesOf [0x00, 0x81])) t ∧ t.item = some (.error .illegalSize)) :=
  ⟨⟨_, rfl, rfl⟩, ⟨_, rfl, rfl⟩, ⟨_, rfl, .inr (.inr ⟨.inr ⟨3, rfl⟩, by decide⟩), rfl⟩, ⟨_, rfl, .inr (.inr ⟨.inl rfl, by decide⟩), rfl⟩⟩

/-- HeaderErrorLosesSynchronisation: an error at header byte 0, and at header byte 1. -/
theorem witness_header_error : (boundTo [.err 5]).src = .err 5 :: [] ∧ (boundTo [.byte 0, .err 6]).src = .byte 0 :: .err 6 :: [] := by decide

/-- DecodedPacketConsumedExactlyItsEncoding: a step that delivers a packet. -/
theorem witness_packet_delivered : ∃ t, step (boundTo (bytesOf ([0x00, 0x52] ++ audio42))) = .next t ∧
    t.item = some (.packet (.audio 42 7 [])) := ⟨_, rfl, by decide⟩

/-- ItemsIndependentOfRegisters: two decoders at rest that differ in every other register, on one source. -/
theorem witness_two_decoders : Ready (boundTo [.err 1]) ∧
    Ready { boundTo [.err 1] with b0 := 1, len := 2, kind := .au, idx := 3, rem := 4, pend := .transport, perr := 5, buf := [(0, 9)] } ∧
    (∃ t, step (boundTo [.err 1]) = .next t) ∧
    (∃ t, step { boundTo [.err 1] with b0 := 1, len := 2, kind := .au, idx := 3, rem := 4, pend := .transport, perr := 5, buf := [(0, 9)] } =
      .next t) := ⟨⟨rfl, rfl, rfl⟩, ⟨rfl, rfl, rfl⟩, ⟨_, rfl⟩, ⟨_, rfl⟩⟩

/-- EncodeDecodeRoundTrip: two packets that encode. -/
theorem witness_round_trip : ∃ bytes, encodeAll [.audio 42 7 [], .speakingStart 1 256] = some bytes ∧
    (boundTo (byteAnswers bytes)).src = byteAnswers bytes := ⟨_, rfl, rfl⟩

/-- WaitingLosesNothing: an operation that comes to wait in PAYLOAD. -/
theorem witness_waiting : ∃ t, step { boundTo (bytesOf [0x00, 0x52, 1]) with srcSilent := true } = .next t ∧ t.st ≠ .idle ∧
    t.st = .payload := ⟨_, rfl, by decide, rfl⟩

/-- DecodeAllTerminates: one operation more than there are elements. -/
theorem witness_decode_all : (∀ a ∈ [Answer.byte 0, .err 1], a.isElement = true) ∧ [Answer.byte 0, .err 1].length + 1 ≤ 3 := by decide

end Sys2Proof.Tests
end

section
/-! PROOFS of 00_scope.md: the big-endian byte order (R12), and that this hardware never reports `IllegalSize` (R8, R213). -/

namespace Sys2Proof.Machine

/-! ### big-endian bytes and values -/

/-- The weight of the byte in front of `n` others is 256 times that of the next. -/
theorem two_pow_eight_mul_succ (n : Nat) : 2 ^ (8 * (n + 1)) = 2 ^ (8 * n) * 256 := by
  rw [Nat.mul_succ, Nat.pow_add]

@[simp] theorem beBytes_length (n v : Nat) : (beBytes n v).length = n := by
  induction n with
  | zero => rfl
  | succ n ih => simp [beBytes, ih]

/-- The `n` bytes of a value are its low `8 * n` bits. -/
theorem beNat_beBytes_eq_mod (n v : Nat) : beNat (beBytes n v) = v % 2 ^ (8 * n) := by
  induction n with
  | zero => simp [beBytes, beNat, Nat.mod_one]
  | succ n ih =>
    rw [beBytes, beNat, ih, beBytes_length, BitVec.toNat_ofNat, two_pow_eight_mul_succ, Nat.mod_mul,
      Nat.add_comm, Nat.mul_comm (2 ^ (8 * n))]

theorem beNat_beBytes {n v : Nat} (h : v < 2 ^ (8 * n)) : beNat (beBytes n v) = v := by
  rw [beNat_beBytes_eq_mod, Nat.mod_eq_of_lt h]

theorem beNat_lt (s : List Byte) : beNat s < 2 ^ (8 * s.length) := by
  induction s with
  | nil => simp [beNat]
  | cons b s ih =>
    have hb : b.toNat + 1 ≤ 256 := b.isLt
    calc beNat (b :: s) < b.toNat * 2 ^ (8 * s.length) + 2 ^ (8 * s.length) := Nat.add_lt_add_left ih _
      _ = (b.toNat + 1) * 2 ^ (8 * s.length) := (Nat.succ_mul _ _).symm
      _ ≤ 256 * 2 ^ (8 * s.length) := Nat.mul_le_mul_right _ hb
      _ = 2 ^ (8 * (b :: s).length) := by rw [List.length_cons, two_pow_eight_mul_succ, Nat.mul_comm]

/-- What stands above the low `8 * n` bits does not show in `n` bytes. -/
theorem beBytes_mul_add (n c v : Nat) : beBytes n (c * 2 ^ (8 * n) + v) = beBytes n v := by
  induction n generalizing c with
  | zero => rfl
  | succ n ih =>
    have hc : c * 2 ^ (8 * (n + 1)) + v = c * 256 * 2 ^ (8 * n) + v := by
      rw [two_pow_eight_mul_succ, Nat.mul_assoc, Nat.mul_comm 256]
    have hhead : (c * 256 * 2 ^ (8 * n) + v) / 2 ^ (8 * n) = c * 256 + v / 2 ^ (8 * n) := by
      rw [Nat.add_comm, Nat.add_mul_div_right _ _ (Nat.two_pow_pos _), Nat.add_comm]
    rw [beBytes, beBytes, hc, ih, hhead]
    congr 1
    apply BitVec.eq_of_toNat_eq
    simp [Nat.add_mod]

theorem beBytes_beNat (s : List Byte) : beBytes s.length (beNat s) = s := by
  induction s with
  | nil => rfl
  | cons b s ih =>
    have hhead : (b.toNat * 2 ^ (8 * s.length) + beNat s) / 2 ^ (8 * s.length) = b.toNat := by
      rw [Nat.add_comm, Nat.add_mul_div_right _ _ (Nat.two_pow_pos _), Nat.div_eq_of_lt (beNat_lt s), Nat.zero_add]
    rw [List.length_cons, beBytes, beNat, hhead, beBytes_mul_add, ih, BitVec.ofNat_toNat, BitVec.setWidth_eq]

/-- Settles O7, by induction on the number of bytes. -/
theorem bigEndianInverse : Obligations.BigEndianInverse :=
  ⟨beBytes_length, fun _ _ => beNat_beBytes, fun s => ⟨beNat_lt s, beBytes_beNat s⟩, fun _ _ => rfl⟩

/-! ### `IllegalSize` is neither pending nor reported

The predicate below holds wherever no length is above the ceiling. Its transition lemmas are for every such ceiling; a step runs at the
hardware's. -/

/-- `IllegalSize` is not on the item port, nor is it the error that a skip is to report. -/
structure State.NoIllegalSize (s : State) : Prop where
  item : s.item ≠ some (.error .illegalSize)
  skip : s.st = .skip → s.pend = .transport

section
variable {p : Params} {s : State}

namespace State.NoIllegalSize

/-- Only the state, the latched error and the item port matter. -/
theorem congr {t : State} (h : s.NoIllegalSize) (hst : t.st = s.st) (hpend : t.pend = s.pend) (hitem : t.item = s.item) :
    t.NoIllegalSize :=
  ⟨hitem ▸ h.item, fun ht => hpend ▸ h.skip (hst ▸ ht)⟩

theorem withSrc (h : s.NoIllegalSize) (as : List Answer) : (s.withSrc as).NoIllegalSize := h.congr rfl rfl rfl

theorem count (h : s.NoIllegalSize) (a : Answer) : (s.count a).NoIllegalSize := h.congr (by simp) (by simp) (by simp)

/-- Outside SKIP only the item port matters. -/
theorem of_st_ne_skip (hitem : s.item ≠ some (.error .illegalSize)) (hst : s.st ≠ .skip) : s.NoIllegalSize :=
  ⟨hitem, fun h => absurd h hst⟩

theorem emit {i : Item} (hi : i ≠ .error .illegalSize) (s : State) : (s.emit i).NoIllegalSize :=
  of_st_ne_skip (by simpa using hi) (by simp)

theorem acceptNext (s : State) : s.acceptNext.NoIllegalSize := of_st_ne_skip (by simp) (by simp)

theorem assertRst (s : State) : s.assertRst.NoIllegalSize := of_st_ne_skip nofun nofun

end State.NoIllegalSize

/-- The dispatch never gives `IllegalSize`: R174 and R175 have `IllegalSizedObject`, R176 has `UnknownKind`. -/
theorem itemOf_ne_illegalSize (k : Kind) (bytes : List Byte) : itemOf k bytes ≠ .error .illegalSize := by
  cases k with
  | unknown => simp [itemOf]
  | ss => simp only [itemOf]; split <;> simp
  | au => simp only [itemOf]; split <;> simp

/-! ### the transitions -/

theorem onHdr0_noIllegalSize (h : s.NoIllegalSize) (a : Answer) : (onHdr0 a s).NoIllegalSize := by
  cases a with
  | fin => exact .emit (by simp) s
  | byte b => exact .of_st_ne_skip h.item nofun
  | err e => exact .emit (by simp) s

/-- No 13-bit length is above the ceiling, so the header never leads to a skip (R160, R163). -/
theorem acceptHeader_noIllegalSize (hp : 8191 ≤ p.maxPayload) (h : s.NoIllegalSize) (l : U13) (k : Kind) :
    (acceptHeader p l k s).NoIllegalSize := by
  obtain ⟨hmax, -⟩ | ⟨-, -, heq⟩ | ⟨-, -, heq⟩ := acceptHeader_cases p l k s
  · exact absurd l.isLt (by omega)
  · exact heq ▸ .emit (itemOf_ne_illegalSize _ _) _
  · exact heq ▸ .of_st_ne_skip h.item nofun

theorem onHdr1_noIllegalSize (hp : 8191 ≤ p.maxPayload) (h : s.NoIllegalSize) (a : Answer) :
    (onHdr1 p a s).NoIllegalSize := by
  cases a with
  | fin => exact .emit (by simp) s
  | byte b => exact acceptHeader_noIllegalSize hp h _ _
  | err e => exact .emit (by simp) s

theorem acceptByte_noIllegalSize (h : s.NoIllegalSize) (b : Byte) : (acceptByte b s).NoIllegalSize := by
  by_cases hlast : s.idx + 1 = s.len
  · exact acceptByte_last b hlast ▸ .emit (itemOf_ne_illegalSize _ _) _
  · exact acceptByte_more b hlast ▸ h.congr rfl rfl rfl

/-- The skip after a payload error has the transport error latched (R166). -/
theorem payloadError_noIllegalSize (h : s.NoIllegalSize) (e : ErrVal) : (payloadError e s).NoIllegalSize := by
  unfold payloadError
  split
  · exact .emit (by simp) _
  · exact ⟨h.item, fun _ => rfl⟩

theorem onPayload_noIllegalSize (h : s.NoIllegalSize) (a : Answer) {t : State} (ht : onPayload a s = .next t) :
    t.NoIllegalSize := by
  cases a with
  | fin => cases ht; exact .emit (by simp) s
  | byte b =>
    simp only [onPayload] at ht
    split at ht
    · cases ht; exact acceptByte_noIllegalSize h b
    · cases ht
  | err e => cases ht; exact payloadError_noIllegalSize h e

/-- The report is the latched error (R171). -/
theorem report_noIllegalSize (h : s.pend = .transport) : s.report.NoIllegalSize := by
  rw [State.report_eq_emit, h]
  exact .emit (by simp) s

theorem skipOne_noIllegalSize (h : s.NoIllegalSize) (hst : s.st = .skip) : (skipOne s).NoIllegalSize := by
  unfold skipOne
  split
  · exact report_noIllegalSize (h.skip hst)
  · exact h.congr rfl rfl rfl

theorem onSkip_noIllegalSize (h : s.NoIllegalSize) (hst : s.st = .skip) (a : Answer) : (onSkip a s).NoIllegalSize := by
  cases a with
  | fin => exact report_noIllegalSize (h.skip hst)
  | byte b => exact skipOne_noIllegalSize h hst
  | err e => exact skipOne_noIllegalSize h hst

theorem onAnswer_noIllegalSize (hp : 8191 ≤ p.maxPayload) (h : s.NoIllegalSize) (a : Answer) {t : State}
    (ht : onAnswer p a s = .next t) : t.NoIllegalSize := by
  cases hst : s.st with
  | idle => rw [onAnswer_idle a hst] at ht; cases ht
  | hdr0 => rw [onAnswer_hdr0 a hst] at ht; cases ht; exact onHdr0_noIllegalSize (h.count a) a
  | hdr1 => rw [onAnswer_hdr1 a hst] at ht; cases ht; exact onHdr1_noIllegalSize hp (h.count a) a
  | payload => rw [onAnswer_payload a hst] at ht; exact onPayload_noIllegalSize (h.count a) a ht
  | skip => rw [onAnswer_skip a hst] at ht; cases ht; exact onSkip_noIllegalSize (h.count a) (by simpa using hst) a

theorem ignoreStale_noIllegalSize (h : s.NoIllegalSize) (a : Answer) : (ignoreStale a s).NoIllegalSize :=
  (h.count a).congr rfl rfl rfl

/-- No transition makes `IllegalSize` pending or reports it, on any event. -/
theorem decStep_noIllegalSize (hp : 8191 ≤ p.maxPayload) (h : s.NoIllegalSize) (e : Event) {t : State}
    (ht : decStep p s e = .next t) : t.NoIllegalSize := by
  cases e with
  | cmdNext =>
    simp only [decStep] at ht
    split at ht
    · cases ht; exact .acceptNext s
    · cases ht
  | rsp a =>
    simp only [decStep] at ht
    split at ht
    · cases ht; exact ignoreStale_noIllegalSize h a
    · exact onAnswer_noIllegalSize hp h a ht
  | rst => cases ht; exact .assertRst s

/-! ### runs and whole steps -/

theorem run_noIllegalSize (hp : 8191 ≤ p.maxPayload) (as : List Answer) (h : s.NoIllegalSize) {t : State}
    (ht : run p as s = .next t) : t.NoIllegalSize := by
  induction as generalizing s with
  | nil =>
    simp only [run] at ht
    split at ht
    · cases ht; exact h.withSrc []
    · exact onAnswer_noIllegalSize hp (h.withSrc []) .fin ht
  | cons a as ih =>
    simp only [run] at ht
    split at ht
    · rename_i u hu
      have hu' : u.NoIllegalSize := onAnswer_noIllegalSize hp (h.withSrc _) a hu
      split at ht
      · cases ht; exact hu'
      · exact ih hu' ht
    · cases ht
    · cases ht

theorem resume_noIllegalSize (hp : 8191 ≤ p.maxPayload) (h : s.NoIllegalSize) {t : State} (ht : resume p s = .next t) :
    t.NoIllegalSize := by
  unfold resume at ht
  split at ht
  · cases ht; exact h
  · exact run_noIllegalSize hp _ h ht

theorem exec_noIllegalSize (i : Instr) (h : s.NoIllegalSize) {t : State} (ht : exec i s = .next t) : t.NoIllegalSize := by
  rw [exec_eq_execHeader] at ht
  exact resume_noIllegalSize le_rfl (acceptHeader_noIllegalSize le_rfl h _ _) ht

theorem flushStale_noIllegalSize (p : Params) (as : List Answer) (h : s.NoIllegalSize) : (flushStale p as s).NoIllegalSize := by
  induction as generalizing s with
  | nil => unfold flushStale; split <;> exact h.congr rfl rfl rfl
  | cons a as ih =>
    unfold flushStale
    split
    · exact h.congr rfl rfl rfl
    · split
      · exact h.congr rfl rfl rfl
      · exact ih (ignoreStale_noIllegalSize h a)

/-- `IllegalSize` is neither pending nor reported where a fetch leaves off. -/
def FetchResult.NoIllegalSize : FetchResult → Prop
  | .header _ s => s.NoIllegalSize
  | .ended o => ∀ t, o = .next t → t.NoIllegalSize

theorem fetchSecond_noIllegalSize (hp : 8191 ≤ p.maxPayload) (h : s.NoIllegalSize) : (fetchSecond p s).NoIllegalSize := by
  unfold fetchSecond
  split
  · exact (h.withSrc _).count _
  · exact fun t ht => run_noIllegalSize hp _ h ht

theorem fetchFirst_noIllegalSize (hp : 8191 ≤ p.maxPayload) (h : s.NoIllegalSize) : (fetchFirst p s).NoIllegalSize := by
  unfold fetchFirst
  split
  · exact fetchSecond_noIllegalSize hp (onHdr0_noIllegalSize ((h.withSrc _).count _) _)
  · exact fun t ht => run_noIllegalSize hp _ h ht

theorem fetchFrom_noIllegalSize (hp : 8191 ≤ p.maxPayload) (h : s.NoIllegalSize) : (fetchFrom p s).NoIllegalSize := by
  unfold fetchFrom
  split
  · rintro t ⟨⟩; exact h
  · cases s.st with
    | hdr0 => exact fetchFirst_noIllegalSize hp h
    | hdr1 => exact fetchSecond_noIllegalSize hp h
    | idle | payload | skip => exact fun t ht => resume_noIllegalSize hp h ht

/-- `next` clears the item port (R259), so only an operation in progress has to be without `IllegalSize`. -/
theorem commanded_noIllegalSize (h : s.st ≠ .idle → s.NoIllegalSize) : (commanded s).NoIllegalSize := by
  unfold commanded
  split
  · exact .acceptNext s
  · exact h ‹_›

theorem fetch_noIllegalSize (hp : 8191 ≤ p.maxPayload) (h : s.st ≠ .idle → s.NoIllegalSize) :
    (fetch p s).NoIllegalSize := by
  unfold fetch
  split
  · exact nofun
  · exact fetchFrom_noIllegalSize hp (flushStale_noIllegalSize p _ (commanded_noIllegalSize h))

theorem step_noIllegalSize (h : s.st ≠ .idle → s.NoIllegalSize) {t : State} (ht : step s = .next t) : t.NoIllegalSize := by
  have hfetch := fetch_noIllegalSize (p := Config.hardware) le_rfl h
  unfold step at ht
  split at ht
  · rename_i i u hu
    rw [hu] at hfetch
    exact exec_noIllegalSize i hfetch ht
  · rename_i o ho
    rw [ho] at hfetch
    exact hfetch t ht

end

/-- Settles O40: SKIP is entered from PAYLOAD only, with a transport error latched, since no header is above the ceiling. -/
theorem hardwareNeverReportsIllegalSize : Obligations.HardwareNeverReportsIllegalSize := by
  intro s t hinv hskip
  refine ⟨fun ht => ?_, fun e ht hitem => ?_⟩
  · have hbusy : s.st ≠ .idle → s.NoIllegalSize := fun hst => ⟨by simp [hinv.busy hst], hskip⟩
    obtain ⟨hi, hs⟩ := step_noIllegalSize hbusy ht
    exact ⟨hi, hs⟩
  · obtain ⟨hi, hs⟩ := decStep_noIllegalSize (p := Config.hardware) le_rfl ⟨hitem, hskip⟩ e ht
    exact ⟨hi, hs⟩

end Sys2Proof.Machine
end

section
/-! PROOFS of 10_state.md: the transitions as a relation with one constructor per rule, and runs,
operations and steps as rows of single pulls. -/

namespace Sys2Proof.Machine

/-! ### the transitions as a relation

One constructor per rule of 42_streaming_decoder.md; every fact about a transition below is a case analysis over these. -/

/-- `Transition p s a t`: from `s`, with a pull outstanding, the answer `a` leads to `t`. -/
inductive Transition (p : Params) (s : State) : Answer → State → Prop where
  /-- R154. -/
  | headerEnd (hst : s.st = .hdr0) : Transition p s .fin ((s.count .fin).emit .endOfStream)
  /-- R155. -/
  | headerByte (b : Byte) (hst : s.st = .hdr0) :
      Transition p s (.byte b) (((s.count (.byte b)).latchB0 b).enter .hdr1)
  /-- R156, R159. -/
  | headerError (e : ErrVal) (hst : s.st = .hdr0 ∨ s.st = .hdr1) :
      Transition p s (.err e) ((s.count (.err e)).emit (.error (.transport e)))
  /-- R157, R165. -/
  | cutShort (hst : s.st = .hdr1 ∨ s.st = .payload) :
      Transition p s .fin ((s.count .fin).emit (.error .unexpectedTermination))
  /-- R163. -/
  | oversized (b : Byte) (l : U13) (k : Kind) (hst : s.st = .hdr1) (hu : hdrUnpack s.b0 b = (l, k))
      (hmax : p.maxPayload < l.toNat) :
      Transition p s (.byte b) ((((s.count (.byte b)).latchHeader l k).latchIllegalSize l).enter .skip)
  /-- R161. -/
  | emptyPayload (b : Byte) (l : U13) (k : Kind) (hst : s.st = .hdr1) (hu : hdrUnpack s.b0 b = (l, k))
      (hmax : l.toNat ≤ p.maxPayload) (hl : l = 0) :
      Transition p s (.byte b) (((s.count (.byte b)).latchHeader l k).emit (itemOf k []))
  /-- R162. -/
  | payloadBegins (b : Byte) (l : U13) (k : Kind) (hst : s.st = .hdr1) (hu : hdrUnpack s.b0 b = (l, k))
      (hmax : l.toNat ≤ p.maxPayload) (hl : l ≠ 0) :
      Transition p s (.byte b) (((s.count (.byte b)).latchHeader l k).enter .payload)
  /-- R164, not the last byte. -/
  | byteStored (b : Byte) (hst : s.st = .payload) (hbuf : s.idx.toNat < Config.bufSize) (hmore : s.idx + 1 ≠ s.len) :
      Transition p s (.byte b) ((s.count (.byte b)).storeByte b)
  /-- R164, the last byte. -/
  | payloadComplete (b : Byte) (hst : s.st = .payload) (hbuf : s.idx.toNat < Config.bufSize) (hlast : s.idx + 1 = s.len) :
      Transition p s (.byte b)
        (((s.count (.byte b)).storeByte b).emit (itemOf s.kind ((s.count (.byte b)).storeByte b).payload))
  /-- R166, no byte owed. -/
  | errorAtLastByte (e : ErrVal) (hst : s.st = .payload) (howed : s.len - s.idx - 1 = 0) :
      Transition p s (.err e)
        (((s.count (.err e)).latchTransport (s.len - s.idx - 1) e).emit (.error (.transport e)))
  /-- R166, bytes owed. -/
  | skipBegins (e : ErrVal) (hst : s.st = .payload) (howed : s.len - s.idx - 1 ≠ 0) :
      Transition p s (.err e) (((s.count (.err e)).latchTransport (s.len - s.idx - 1) e).enter .skip)
  /-- R169. -/
  | elementSkipped (a : Answer) (ha : a.isElement = true) (hst : s.st = .skip) (hmore : s.rem ≠ 1) :
      Transition p s a (s.count a).countDown
  /-- R169, R171. -/
  | skipComplete (a : Answer) (ha : a.isElement = true) (hst : s.st = .skip) (hlast : s.rem = 1) :
      Transition p s a ((s.count a).countDown.emit s.latched)
  /-- R170, R171. -/
  | skipEnd (hst : s.st = .skip) : Transition p s .fin ((s.count .fin).emit s.latched)

section
variable {p : Params} {s t : State} {a : Answer}

theorem skipOne_transition (ha : a.isElement = true) (hst : s.st = .skip) : Transition p s a (skipOne (s.count a)) := by
  by_cases hrem : s.rem = 1
  · have h : skipOne (s.count a) = (s.count a).countDown.emit s.latched := by
      rw [skipOne_last (by simpa using hrem), State.count_pend, State.count_perr]
      rfl
    exact h ▸ .skipComplete a ha hst hrem
  · exact skipOne_more (s := s.count a) (by simpa using hrem) ▸ .elementSkipped a ha hst hrem

theorem acceptHeader_transition (b : Byte) (hst : s.st = .hdr1) :
    Transition p s (.byte b) (acceptHeader p (hdrUnpack s.b0 b).1 (hdrUnpack s.b0 b).2 (s.count (.byte b))) := by
  obtain ⟨hmax, h⟩ | ⟨hmax, hl, h⟩ | ⟨hmax, hl, h⟩ :=
    acceptHeader_cases p (hdrUnpack s.b0 b).1 (hdrUnpack s.b0 b).2 (s.count (.byte b))
  · exact h ▸ .oversized b _ _ hst rfl hmax
  · exact h ▸ .emptyPayload b _ _ hst rfl hmax hl
  · exact h ▸ .payloadBegins b _ _ hst rfl hmax hl

theorem acceptByte_transition (b : Byte) (hst : s.st = .payload) (hbuf : s.idx.toNat < Config.bufSize) :
    Transition p s (.byte b) (acceptByte b (s.count (.byte b))) := by
  by_cases hlast : s.idx + 1 = s.len
  · exact acceptByte_last (s := s.count (.byte b)) b hlast ▸ .payloadComplete b hst hbuf hlast
  · exact acceptByte_more (s := s.count (.byte b)) b hlast ▸ .byteStored b hst hbuf hlast

theorem payloadError_transition (e : ErrVal) (hst : s.st = .payload) :
    Transition p s (.err e) (payloadError e (s.count (.err e))) := by
  unfold payloadError
  split
  · exact .errorAtLastByte e hst ‹_›
  · exact .skipBegins e hst ‹_›

theorem onSkip_transition (hst : s.st = .skip) (a : Answer) : Transition p s a (onSkip a (s.count a)) := by
  cases a with
  | fin =>
    have h : onSkip .fin (s.count .fin) = (s.count .fin).emit s.latched := State.report_eq_emit _
    exact h ▸ .skipEnd hst
  | byte b => exact skipOne_transition rfl hst
  | err e => exact skipOne_transition rfl hst

theorem Transition.of_onAnswer (h : onAnswer p a s = .next t) : Transition p s a t := by
  cases hst : s.st with
  | idle => rw [onAnswer_idle a hst] at h; cases h
  | hdr0 =>
    rw [onAnswer_hdr0 a hst] at h
    cases h
    cases a with
    | fin => exact .headerEnd hst
    | byte b => exact .headerByte b hst
    | err e => exact .headerError e (.inl hst)
  | hdr1 =>
    rw [onAnswer_hdr1 a hst] at h
    cases h
    cases a with
    | fin => exact .cutShort (.inl hst)
    | byte b => exact acceptHeader_transition b hst
    | err e => exact .headerError e (.inr hst)
  | payload =>
    rw [onAnswer_payload a hst] at h
    cases a with
    | fin => cases h; exact .cutShort (.inr hst)
    | byte b =>
      simp only [onPayload] at h
      split at h
      · cases h; exact acceptByte_transition b hst (by simpa using ‹_›)
      · cases h
    | err e => cases h; exact payloadError_transition e hst
  | skip =>
    rw [onAnswer_skip a hst] at h
    cases h
    exact onSkip_transition hst a

/-- An operation is in progress wherever an answer has a transition (R153, R260). -/
theorem Transition.ne_idle (h : Transition p s a t) : s.st ≠ .idle := by
  cases h with
  | headerError _ hst | cutShort hst => rcases hst with hst | hst <;> simp [hst]
  | _ => simp [*]

/-- Where an answer does not lead outside `BUF`, it has a transition. -/
theorem onAnswer_total (hst : s.st ≠ .idle) (hbuf : s.st = .payload → s.idx.toNat < Config.bufSize) (a : Answer) :
    ∃ t, onAnswer p a s = .next t := by
  cases h : s.st with
  | idle => exact absurd h hst
  | hdr0 => exact ⟨_, onAnswer_hdr0 a h⟩
  | hdr1 => exact ⟨_, onAnswer_hdr1 a h⟩
  | payload =>
    rw [onAnswer_payload a h]
    cases a with
    | fin => exact ⟨_, rfl⟩
    | byte b => exact ⟨acceptByte b (s.count (.byte b)), by simp [onPayload, hbuf h]⟩
    | err e => exact ⟨_, rfl⟩
  | skip => exact ⟨_, onAnswer_skip a h⟩

/-! ### what every transition does to the source and to the counts -/

namespace Transition

theorem src_eq (h : Transition p s a t) : t.src = s.src := by cases h <;> simp
theorem srcSilent_eq (h : Transition p s a t) : t.srcSilent = s.srcSilent := by cases h <;> simp
theorem stale_eq (h : Transition p s a t) : t.stale = s.stale := by cases h <;> simp
theorem pulls_eq (h : Transition p s a t) : t.pulls = s.pulls + 1 := by cases h <;> simp

/-- `POS` counts the elements, and END is none (R29). -/
theorem pos_eq (h : Transition p s a t) : t.pos = s.pos + if a.isElement then 1 else 0 := by
  have hc : (s.count a).pos = s.pos + if a.isElement then 1 else 0 := by cases a <;> rfl
  rw [← hc]
  cases h <;> simp

/-- END ends the operation in every state (R154, R157, R165, R170). -/
theorem idle_of_fin (h : Transition p s .fin t) : t.st = .idle := by
  cases h with
  | elementSkipped _ ha | skipComplete _ ha => cases ha
  | _ => rfl

end Transition

theorem onAnswer_hdr1_byte {b : Byte} {l : U13} {k : Kind} (hst : s.st = .hdr1) (hu : hdrUnpack s.b0 b = (l, k)) :
    onAnswer p (.byte b) s = .next (acceptHeader p l k (s.count (.byte b))) := by
  rw [onAnswer_hdr1 _ hst]
  simp [onHdr1, State.count_b0, hu]

/-- The relation is the transition function, so that a transition is determined by its state and answer. -/
theorem Transition.onAnswer_eq (h : Transition p s a t) : onAnswer p a s = .next t := by
  cases h with
  | headerEnd hst | headerByte b hst => exact onAnswer_hdr0 _ hst
  | headerError e hst => exact hst.elim (onAnswer_hdr0 _) (onAnswer_hdr1 _)
  | cutShort hst => exact hst.elim (onAnswer_hdr1 _) (onAnswer_payload _)
  | oversized b l k hst hu hmax => rw [onAnswer_hdr1_byte hst hu, acceptHeader, if_pos hmax]
  | emptyPayload b l k hst hu hmax hl =>
    subst hl
    rw [onAnswer_hdr1_byte hst hu, acceptHeader, if_neg (by omega), if_pos rfl, State.dispatch_eq_emit]
    rfl
  | payloadBegins b l k hst hu hmax hl => rw [onAnswer_hdr1_byte hst hu, acceptHeader, if_neg (by omega), if_neg hl]
  | byteStored b hst hbuf hmore => rw [onAnswer_payload_byte b hst hbuf, acceptByte_more b (by simpa using hmore)]
  | payloadComplete b hst hbuf hlast =>
    rw [onAnswer_payload_byte b hst hbuf, acceptByte_last b (by simpa using hlast), State.count_kind]
  | errorAtLastByte e hst howed => exact (onAnswer_payload _ hst).trans (congrArg Host.Outcome.next (if_pos howed))
  | skipBegins e hst howed => exact (onAnswer_payload _ hst).trans (congrArg Host.Outcome.next (if_neg howed))
  | elementSkipped a ha hst hmore => rw [onAnswer_skip_element ha hst, skipOne_more (by simpa using hmore)]
  | skipComplete a ha hst hlast =>
    rw [onAnswer_skip_element ha hst, skipOne_last (by simpa using hlast), State.count_pend, State.count_perr]
    rfl
  | skipEnd hst =>
    rw [onAnswer_skip _ hst, onSkip, State.report_eq_emit, State.count_pend, State.count_perr]
    rfl

/-! ### runs, one answered pull at a time -/

/-- One pull, answered by the source itself, and the transition on the answer. -/
def Answered (p : Params) (s t : State) : Prop :=
  ∃ a rest, s.pullAnswer p = some (a, rest) ∧ Transition p (s.withSrc rest) a t

/-- A predicate kept by every answered pull is kept by a run, which ends in IDLE or at a pull without an answer (R185). -/
theorem run_keeps {P : State → Prop} (hP : ∀ s t, P s → Answered p s t → P t) (hs : P s)
    (ht : run p s.src s = .next t) : P t ∧ (t.st = .idle ∨ t.pullAnswer p = none) := by
  generalize has : s.src = as at ht
  induction as generalizing s with
  | nil =>
    have hw : s.withSrc [] = s := by rw [← has]; rfl
    rw [run, hw] at ht
    cases hq : s.srcSilent with
    | true =>
      rw [if_pos hq] at ht
      cases ht
      exact ⟨hs, .inr (State.pullAnswer_none.mpr ⟨has, hq⟩)⟩
    | false =>
      rw [if_neg (by simp [hq])] at ht
      have htr := Transition.of_onAnswer ht
      exact ⟨hP s t hs ⟨.fin, [], by simp [State.pullAnswer, has, hq], hw ▸ htr⟩, .inl htr.idle_of_fin⟩
  | cons a as ih =>
    rw [run] at ht
    split at ht
    · rename_i u hu
      have htr := Transition.of_onAnswer hu
      have hu' : P u := hP s u hs ⟨a, _, by simp [State.pullAnswer, has], htr⟩
      split at ht
      · cases ht; exact ⟨hu', .inl ‹_›⟩
      · refine ih hu' ?_ ht
        cases a with
        | fin => exact absurd htr.idle_of_fin ‹_›
        | byte b | err e => exact htr.src_eq
    · cases ht
    · cases ht

/-- `resume` is a run, or nothing in IDLE. -/
theorem resume_keeps {P : State → Prop} (hP : ∀ s t, P s → Answered p s t → P t) (hs : P s)
    (ht : resume p s = .next t) : P t ∧ (t.st = .idle ∨ t.pullAnswer p = none) := by
  unfold resume at ht
  split at ht
  · cases ht; exact ⟨hs, .inl ‹_›⟩
  · exact run_keeps hP hs ht

/-! ### a whole operation is `next` and then single pulls -/

/-- With no abandoned pull, an answered pull is a `pullStep`. -/
theorem Answered.pullStep (h : Answered p s t) (hs : s.stale = 0) : pullStep p s = .next t := by
  obtain ⟨a, rest, ha, htr⟩ := h
  simp only [Machine.pullStep, ha]
  rw [decStep_rsp a (by simpa using hs), htr.onAnswer_eq]

theorem Answered.stale_eq (h : Answered p s t) : t.stale = s.stale := by
  obtain ⟨a, rest, -, htr⟩ := h
  simp [htr.stale_eq]

theorem Pulled.trans {u : State} (h₁ : Pulled p s t) (h₂ : Pulled p t u) : Pulled p s u := by
  induction h₂ with
  | none => exact h₁
  | more v w _ m ih => exact .more v w ih m

theorem Pulled.head {u : State} (h : Machine.pullStep p s = .next t) (h₂ : Pulled p t u) : Pulled p s u :=
  (Pulled.more s t .none h).trans h₂

/-- A predicate kept by one pull is kept by any number. -/
theorem Pulled.keeps {P : State → Prop} (hP : ∀ s t, P s → Machine.pullStep p s = .next t → P t) (hs : P s)
    (h : Pulled p s t) : P t := by
  induction h with
  | none => exact hs
  | more u v _ m ih => exact hP u v ih m

theorem resume_pulled (hs : s.stale = 0) (ht : resume p s = .next t) : Pulled p s t := by
  have hP : ∀ u v, (Pulled p s u ∧ u.stale = 0) → Answered p u v → (Pulled p s v ∧ v.stale = 0) :=
    fun u v ⟨hu, h0⟩ hv => ⟨.more u v hu (hv.pullStep h0), hv.stale_eq.trans h0⟩
  exact (resume_keeps hP ⟨.none, hs⟩ ht).1.1

/-- The answer of an abandoned pull is pulled like any other (R251). -/
theorem pullStep_stale {rest : List Answer} (hs : s.stale ≠ 0) (ha : s.pullAnswer p = some (a, rest)) :
    pullStep p s = .next (ignoreStale a (s.withSrc rest)) := by
  simp only [pullStep, ha, decStep]
  rw [if_pos (by simpa [Nat.pos_iff_ne_zero] using hs)]

theorem ignoreAllStale_pulled (h : s.pullAnswer p = some (.fin, s.src)) : Pulled p s (ignoreAllStale s) := by
  induction hn : s.stale generalizing s with
  | zero =>
    have : ignoreAllStale s = s := by
      cases s
      simp_all [ignoreAllStale]
    exact this ▸ .none
  | succ n ih =>
    have hstep := pullStep_stale (by omega) h
    rw [State.withSrc_self] at hstep
    have hrec := ih (s := ignoreStale .fin s) h (by simp [ignoreStale, hn])
    have heq : ignoreAllStale (ignoreStale .fin s) = ignoreAllStale s := by
      simp only [ignoreAllStale, ignoreStale, State.count, hn]
      congr 1
      omega
    exact .head hstep (heq ▸ hrec)

theorem ignoreStale_withSrc (a : Answer) (s : State) (as : List Answer) :
    ignoreStale a (s.withSrc as) = (ignoreStale a s).withSrc as := by cases a <;> rfl

theorem flushStale_withSrc (p : Params) (as bs : List Answer) (s : State) :
    flushStale p as (s.withSrc bs) = flushStale p as s := by
  induction as generalizing s with
  | nil => rfl
  | cons a as ih =>
    unfold flushStale
    rw [ignoreStale_withSrc, ih]
    rfl

/-- Ignoring the answers of abandoned pulls is a row of single pulls. -/
theorem flushStale_pulled (p : Params) (s : State) : Pulled p s (flushStale p s.src s) := by
  generalize has : s.src = as
  induction as generalizing s with
  | nil =>
    have hw : s.withSrc [] = s := by rw [← has]; rfl
    unfold flushStale
    rw [hw]
    cases hq : s.srcSilent with
    | true => exact .none
    | false => exact ignoreAllStale_pulled (by simp [State.pullAnswer, has, hq])
  | cons a as ih =>
    have hw : s.withSrc (a :: as) = s := by rw [← has]; rfl
    unfold flushStale
    rw [hw]
    split
    · exact .none
    · rename_i hs
      split
      · rename_i hfin
        obtain ⟨rfl, hp⟩ := hfin
        exact ignoreAllStale_pulled (by simp [State.pullAnswer, has, sourceAfter, hp])
      · rename_i hfin
        have hrest : sourceAfter p a as = as := by cases a <;> simp_all [sourceAfter]
        have hstep := pullStep_stale (p := p) hs (a := a) (rest := as) (by simp [State.pullAnswer, has, hrest])
        have hrec := ih ((ignoreStale a s).withSrc as) rfl
        rw [flushStale_withSrc] at hrec
        rw [ignoreStale_withSrc] at hstep
        exact .head hstep hrec

theorem decNext_pulled (ht : decNext p s = .next t) : Pulled p (commanded s) t := by
  have hflush := flushStale_pulled p (commanded s)
  unfold decNext at ht
  split at ht
  · cases ht
  · split at ht
    · cases ht; exact hflush
    · exact hflush.trans (resume_pulled (by omega) ht)

/-- What `next` and single pulls keep, an operation keeps. -/
theorem decNext_keeps {P : State → Prop} (hnext : ∀ s, s.st = .idle → P s → P s.acceptNext)
    (hpull : ∀ s t, P s → pullStep p s = .next t → P t) (hs : P s) (ht : decNext p s = .next t) : P t := by
  refine (decNext_pulled ht).keeps hpull ?_
  unfold commanded
  split
  · exact hnext s ‹_› hs
  · exact hs

section
variable {P : State → Prop} (hsrc : ∀ s as, P s → P (s.withSrc as))
  (hdec : ∀ s t e, P s → decStep p s e = .next t → P t)
include hsrc hdec

/-- What every transition keeps, whatever the source is to give, a pull keeps. -/
theorem pullStep_keeps (hs : P s) (ht : pullStep p s = .next t) : P t := by
  unfold pullStep at ht
  split at ht
  · exact hdec _ _ _ (hsrc s _ hs) ht
  · cases ht

/-- What every transition keeps, whatever the source is to give, an operation keeps. -/
theorem decNext_keeps_of_decStep (hs : P s) (ht : decNext p s = .next t) : P t :=
  decNext_keeps (fun s hst hs => hdec s _ .cmdNext hs (by simp [decStep, hst]))
    (fun _ _ => pullStep_keeps hsrc hdec) hs ht

/-- What a new binding has and every transition keeps holds of every reachable state. -/
theorem Reachable.keeps (hbound : ∀ as silent, P (State.bound as silent)) (h : Reachable p s) : P s := by
  induction h with
  | bound as silent => exact hbound as silent
  | move s t _ m hs =>
    cases m with
    | next _ h | rst _ h => exact hdec s t _ hs h
    | pull _ h => exact pullStep_keeps hsrc hdec hs h
    | op _ h => exact decNext_keeps_of_decStep hsrc hdec hs h
    | offer as =>
      obtain ⟨-, -, ho⟩ | ⟨-, ho⟩ := s.offer_cases p as <;> rw [ho]
      · exact hs
      · exact hsrc s _ hs

end
end

/-! ### the header word and `HDR.UNPACK` -/

/-- The header word as a number (R82). -/
theorem headerWord_toNat (b0 b1 : Byte) : (headerWord b0 b1).toNat = b0.toNat * 256 + b1.toNat :=
  (BitVec.toNat_append b0 b1).trans (shift_or_low _ 8 _ b1.isLt)

/-- The length immediate as a number (R83). -/
theorem headerLength_toNat (b0 b1 : Byte) : (headerLength b0 b1).toNat = b0.toNat * 32 + b1.toNat / 8 := by
  have h0 : b0.toNat < 256 := b0.isLt
  have h1 : b1.toNat < 256 := b1.isLt
  have hhigh : (b0.setWidth 13 <<< 5 : U13).toNat = b0.toNat <<< 5 := by
    rw [BitVec.toNat_shiftLeft, BitVec.toNat_setWidth, Nat.shiftLeft_eq]
    omega
  have hlow : ((b1 >>> 3).setWidth 13 : U13).toNat = b1.toNat / 8 := by
    rw [BitVec.toNat_setWidth, BitVec.toNat_ushiftRight, Nat.shiftRight_eq_div_pow]
    omega
  rw [headerLength, BitVec.toNat_or, hhigh, hlow, shift_or_low _ 5 _ (by omega)]
  rfl

/-- The type code as a number (R84). -/
theorem headerType_toNat (b1 : Byte) : (headerType b1).toNat = b1.toNat % 8 := by
  have h : (b1 &&& 0x07 : Byte).toNat = b1.toNat % 8 := (BitVec.toNat_and b1 7).trans (and_low_bits b1.toNat 3)
  rw [headerType, BitVec.toNat_setWidth, h]
  omega

/-- The instruction of two header bytes has the length and the type code that `HDR.UNPACK` takes from them (R83, R84). -/
theorem decodeHeader_eq (b0 b1 : Byte) : decodeHeader b0 b1 = instrOfType (headerType b1) (headerLength b0 b1) := by
  have h0 := b0.isLt
  have h1 := b1.isLt
  have hw := headerWord_toNat b0 b1
  have htype : (headerWord b0 b1).extractLsb' 0 3 = headerType b1 := by
    apply BitVec.eq_of_toNat_eq
    rw [BitVec.extractLsb'_toNat, headerType_toNat, hw, Nat.shiftRight_zero]
    omega
  have hlength : (headerWord b0 b1).extractLsb' 3 13 = headerLength b0 b1 := by
    apply BitVec.eq_of_toNat_eq
    rw [BitVec.extractLsb'_toNat, headerLength_toNat, hw, Nat.shiftRight_eq_div_pow]
    omega
  rw [decodeHeader, decodeWord, htype, hlength]

theorem instrOfType_length (ty : U3) (l : U13) : (instrOfType ty l).length = l := by
  unfold instrOfType
  split <;> rfl

/-- The 3-bit type selects the kind (R84, R89). -/
theorem instrOfType_kind (ty : U3) (l : U13) : (instrOfType ty l).kind = kindOf ty := by
  have h : ∀ ty : U3, (instrOfType ty 0).kind = kindOf ty := by decide
  rw [← h ty]
  unfold instrOfType
  split <;> rfl

/-- `HDR.UNPACK` and the decoded instruction agree (R110). -/
theorem hdrUnpack_eq (b0 b1 : Byte) : hdrUnpack b0 b1 = ((decodeHeader b0 b1).length, (decodeHeader b0 b1).kind) := by
  rw [decodeHeader_eq, instrOfType_length, instrOfType_kind]
  rfl

/-! ### a step, which goes through the instructions, is a run of the transitions -/

/-- What a fetch comes to, the instruction it found being run. -/
def FetchResult.complete : FetchResult → Result
  | .header i s => exec i s
  | .ended o => o

theorem step_eq_complete (s : State) : step s = (fetch Config.hardware s).complete := by
  unfold step
  cases fetch Config.hardware s <;> rfl

/-- A run through header byte 1 is the instruction of the complete header (R158). -/
theorem run_second_byte {p : Params} {s : State} {b1 : Byte} {rest : List Answer} (hst : s.st = .hdr1) :
    run p (.byte b1 :: rest) s =
      execHeader p (decodeHeader s.b0 b1).length (decodeHeader s.b0 b1).kind ((s.withSrc rest).count (.byte b1)) := by
  have htr := acceptHeader_transition (p := p) (s := s.withSrc rest) b1 hst
  rw [State.withSrc_b0, hdrUnpack_eq] at htr
  simp only [execHeader, resume, htr.src_eq, State.withSrc_src]
  simp only [run, sourceAfter, htr.onAnswer_eq]

/-- A run through header byte 0 goes on in HDR1 (R155). -/
theorem run_first_byte {p : Params} {s : State} {b0 : Byte} {rest : List Answer} (hst : s.st = .hdr0) :
    run p (.byte b0 :: rest) s = run p rest (onHdr0 (.byte b0) ((s.withSrc rest).count (.byte b0))) :=
  run_cons_more (onAnswer_hdr0 (s := s.withSrc rest) (.byte b0) hst) nofun

theorem fetchSecond_complete {s : State} (hst : s.st = .hdr1) :
    (fetchSecond Config.hardware s).complete = run Config.hardware s.src s := by
  unfold fetchSecond
  split
  · rename_i b1 rest hsrc
    rw [hsrc, run_second_byte hst]
    exact exec_eq_execHeader _ _
  · rfl

theorem fetchFirst_complete {s : State} (hst : s.st = .hdr0) :
    (fetchFirst Config.hardware s).complete = run Config.hardware s.src s := by
  unfold fetchFirst
  split
  · rename_i b0 rest hsrc
    rw [hsrc, run_first_byte hst]
    exact fetchSecond_complete rfl
  · rfl

theorem fetchFrom_complete (s : State) :
    (fetchFrom Config.hardware s).complete = if s.stale ≠ 0 then .next s else resume Config.hardware s := by
  unfold fetchFrom
  split
  · rfl
  · cases hst : s.st with
    | hdr0 => simp [fetchFirst_complete hst, resume, hst]
    | hdr1 => simp [fetchSecond_complete hst, resume, hst]
    | idle | payload | skip => rfl

/-- R177: a step is the run of the transitions from `next` to the item. -/
theorem step_eq_decNext (s : State) : step s = decNext Config.hardware s := by
  rw [step_eq_complete, fetch, decNext]
  split
  · rfl
  · exact fetchFrom_complete _

end Sys2Proof.Machine
end

section
/-! PROOFS of 10_state.md: the decoder's invariant. -/

namespace Sys2Proof.Machine

section
variable {p : Params} {s t : State}

namespace Inv

/-- Where an item is delivered only `BUF` matters. -/
theorem emit (hbuf : s.buf.wf = true) (i : Item) : Inv p (s.emit i) :=
  ⟨nofun, nofun, fun h => absurd rfl h, hbuf⟩

theorem acceptNext (h : Inv p s) : Inv p s.acceptNext := ⟨nofun, nofun, fun _ => rfl, h.buf⟩

theorem withSrc (h : Inv p s) (as : List Answer) : Inv p (s.withSrc as) := ⟨h.payload, h.skip, h.busy, h.buf⟩

theorem bound (as : List Answer) (silent : Bool) : Inv p (State.bound as silent) :=
  ⟨nofun, nofun, fun _ => rfl, Memory.wf_reset⟩

theorem assertRst (s : State) : Inv p s.assertRst := ⟨nofun, nofun, fun _ => rfl, Memory.wf_reset⟩

theorem ignoreStale (h : Inv p s) (a : Answer) : Inv p (ignoreStale a s) := by
  cases a <;> exact ⟨h.payload, h.skip, h.busy, h.buf⟩

end Inv

/-- Subtraction without a borrow: one owed pull fewer (R169). -/
theorem pred_toNat {n : U13} (h : 1 ≤ n.toNat) : (n - 1).toNat = n.toNat - 1 := by
  have := n.isLt
  rw [BitVec.toNat_sub]
  simp
  omega

/-- A number of 13 bits that is not 0 is at least 1. -/
theorem one_le_toNat {n : U13} (h : n ≠ 0) : 1 ≤ n.toNat :=
  Nat.pos_of_ne_zero fun h0 => h (BitVec.eq_of_toNat_eq h0)

/-- Every transition on an answer keeps the invariant. -/
theorem Transition.inv {a : Answer} (h : Transition p s a t) (hs : Inv p s) : Inv p t := by
  have hbusy : s.item = none := hs.busy h.ne_idle
  have hcount : (s.count a).buf.wf = true := by simpa using hs.buf
  cases h with
  | headerEnd | headerError | cutShort | emptyPayload | errorAtLastByte | skipComplete | skipEnd =>
    exact .emit (by simpa using hs.buf) _
  | headerByte => exact ⟨nofun, nofun, fun _ => hbusy, hcount⟩
  | oversized b l k hst hu hmax => exact ⟨nofun, fun _ => Nat.one_le_of_lt hmax, fun _ => hbusy, hcount⟩
  | payloadBegins b l k hst hu hmax hl =>
    exact ⟨fun _ => ⟨one_le_toNat hl, hmax⟩, nofun, fun _ => hbusy, hcount⟩
  | byteStored b hst hbuf hmore =>
    obtain ⟨hlt, hmax⟩ := hs.payload hst
    have hi := idx_succ_toNat hlt
    have hne := BitVec.toNat_ne_iff_ne.mpr hmore
    have hidx : (s.idx + 1).toNat < s.len.toNat := by omega
    exact ⟨fun _ => ⟨hidx, hmax⟩, fun h => by simp [hst] at h, fun _ => hbusy, Memory.wf_write b hcount hbuf⟩
  | payloadComplete b hst hbuf hlast => exact .emit (Memory.wf_write b hcount hbuf) _
  | skipBegins e hst howed => exact ⟨nofun, fun _ => one_le_toNat howed, fun _ => hbusy, hcount⟩
  | elementSkipped a ha hst hmore =>
    have hrem := hs.skip hst
    have hne : s.rem.toNat ≠ 1 := BitVec.toNat_ne_iff_ne.mpr hmore
    have hpred := pred_toNat hrem
    exact ⟨fun h => by simp [hst] at h, fun _ => by simp only [State.countDown_rem, State.count_rem]; omega,
      fun _ => by simpa using hbusy, hcount⟩

/-- Every transition on any event keeps the invariant. -/
theorem decStep_inv (e : Event) (hs : Inv p s) (ht : decStep p s e = .next t) : Inv p t := by
  cases e with
  | cmdNext =>
    simp only [decStep] at ht
    split at ht
    · cases ht; exact hs.acceptNext
    · cases ht
  | rsp a =>
    simp only [decStep] at ht
    split at ht
    · cases ht; exact hs.ignoreStale a
    · exact (Transition.of_onAnswer ht).inv hs
  | rst => cases ht; exact .assertRst s

theorem decNext_inv (hs : Inv p s) (ht : decNext p s = .next t) : Inv p t :=
  decNext_keeps_of_decStep (fun _ as h => h.withSrc as) (fun _ _ e h => decStep_inv e h) hs ht

end

/-- Settles O26, by the rules of the transitions. -/
theorem transitionsKeepInvariant : Obligations.TransitionsKeepInvariant :=
  fun _ _ _ e => decStep_inv e

/-- Settles O27: a step is a row of transitions, each of which keeps the invariant. -/
theorem stepKeepsInvariant : Obligations.StepKeepsInvariant := by
  intro s t hs ht
  rw [step_eq_decNext] at ht
  exact decNext_inv hs ht

/-- Settles O29, by induction on the moves, each of which is a row of transitions or leaves all but the source alone. -/
theorem reachableStatesSatisfyInvariant : Obligations.ReachableStatesSatisfyInvariant := by
  constructor
  · intro p s _ hs
    exact hs.keeps (fun _ as h => h.withSrc as) (fun _ _ e h => decStep_inv e h) Inv.bound
  · intro p s hp hs
    obtain ⟨hitem, hskip⟩ : s.NoIllegalSize :=
      hs.keeps (fun _ as h => h.withSrc as) (fun _ _ e h => decStep_noIllegalSize hp h e)
        (fun _ _ => .of_st_ne_skip nofun nofun)
    exact ⟨hskip, hitem⟩

/-- Settles O24. -/
theorem resetState : Obligations.ResetState := ⟨rfl, rfl, rfl, rfl, rfl⟩

/-- Settles O25: the state after reset is a binding to the empty source. -/
theorem resetSatisfiesInvariant : Obligations.ResetSatisfiesInvariant := Inv.bound [] false

/-! ### the operations without state -/

/-- Every operation but `DEC.NEXT` has a result of its operands alone (R33). -/
theorem pureResult_eq_none_iff (op : Op) : pureResult op = none ↔ op = .decNext := by
  cases op <;> simp [pureResult]

/-- Settles O14: such a result is delivered in every state, which is not looked at. -/
theorem statelessOperationsKeepState : Obligations.StatelessOperationsKeepState := by
  intro op hop
  obtain ⟨r, hr⟩ := Option.ne_none_iff_exists'.mp (mt (pureResult_eq_none_iff op).mp hop)
  exact ⟨r, fun s => by simp [operate, hr]⟩

end Sys2Proof.Machine
end

section
/-! PROOFS of 10_state.md: how many pulls an operation can still make, and that it always goes on. -/

namespace Sys2Proof.Machine

/-- How many more pulls an operation in progress can make: each of the two header bytes and each byte of the longest payload; once the
header is complete, the payload bytes not yet stored, or the pulls a skip owes (R180, R267). -/
def State.budget (s : State) : Nat :=
  match s.st with
  | .idle => 0
  | .hdr0 => Config.hdrBytes + Config.lenMax
  | .hdr1 => 1 + Config.lenMax
  | .payload => s.len.toNat - s.idx.toNat
  | .skip => s.rem.toNat

section
variable {p : Params} {s t : State} {a : Answer}

theorem State.budget_idle (h : s.st = .idle) : s.budget = 0 := by simp [State.budget, h]
theorem State.budget_hdr0 (h : s.st = .hdr0) : s.budget = 8193 := by simp [State.budget, h, Config.hdrBytes, Config.lenMax]
theorem State.budget_hdr1 (h : s.st = .hdr1) : s.budget = 8192 := by simp [State.budget, h, Config.lenMax]
theorem State.budget_payload (h : s.st = .payload) : s.budget = s.len.toNat - s.idx.toNat := by simp [State.budget, h]
theorem State.budget_skip (h : s.st = .skip) : s.budget = s.rem.toNat := by simp [State.budget, h]

/-- Outside IDLE a state is *live* when its budget is not used up: within `IDX < LEN` in PAYLOAD and `REM >= 1` in SKIP. -/
def State.Live (s : State) : Prop := s.st ≠ .idle → 0 < s.budget

theorem Inv.live (h : Inv p s) : s.Live := by
  intro hst
  cases hs : s.st with
  | idle => exact absurd hs hst
  | hdr0 => simp [s.budget_hdr0 hs]
  | hdr1 => simp [s.budget_hdr1 hs]
  | payload =>
    have := h.payload hs
    rw [s.budget_payload hs]
    omega
  | skip => exact s.budget_skip hs ▸ h.skip hs

theorem State.Live.lt_bufSize (h : s.Live) (hst : s.st = .payload) : s.idx.toNat < Config.bufSize := by
  have hb := h (by simp [hst])
  rw [State.budget_payload hst] at hb
  have := s.len.isLt
  show s.idx.toNat < 8191
  omega

/-- A transition from a live state leads to a live state and uses up some of the budget. -/
theorem Transition.budget (h : Transition p s a t) (hs : s.Live) : t.Live ∧ t.budget < s.budget := by
  have hb := hs h.ne_idle
  cases h with
  | headerEnd | headerError | cutShort | emptyPayload | payloadComplete | errorAtLastByte | skipComplete | skipEnd =>
    exact ⟨fun h => absurd rfl h, hb⟩
  | headerByte b hst =>
    rw [s.budget_hdr0 hst, State.Live, State.budget_hdr1 rfl]
    omega
  | oversized b l k hst hu hmax =>
    have := l.isLt
    rw [s.budget_hdr1 hst, State.Live, State.budget_skip rfl]
    exact ⟨fun _ => Nat.zero_lt_of_lt hmax, by simpa using (by omega)⟩
  | payloadBegins b l k hst hu hmax hl =>
    have := l.isLt
    have := one_le_toNat hl
    rw [s.budget_hdr1 hst, State.Live, State.budget_payload rfl]
    simp
    omega
  | byteStored b hst hbuf hmore =>
    rw [s.budget_payload hst] at hb ⊢
    have hi := idx_succ_toNat (i := s.idx) (l := s.len) (by omega)
    have hne := BitVec.toNat_ne_iff_ne.mpr hmore
    rw [State.Live, State.budget_payload (by simpa using hst)]
    simp only [State.storeByte_len, State.storeByte_idx, State.count_len, State.count_idx]
    omega
  | skipBegins e hst howed =>
    rw [s.budget_payload hst] at hb ⊢
    have := owed_toNat (i := s.idx) (l := s.len) (by omega)
    have := one_le_toNat howed
    rw [State.Live, State.budget_skip rfl]
    simp only [State.enter_rem, State.latchTransport_rem]
    omega
  | elementSkipped a ha hst hmore =>
    rw [s.budget_skip hst] at hb ⊢
    have := pred_toNat hb
    have hne : s.rem.toNat ≠ 1 := BitVec.toNat_ne_iff_ne.mpr hmore
    rw [State.Live, State.budget_skip (by simpa using hst)]
    simp only [State.countDown_rem, State.count_rem]
    omega

/-- From a live state a run comes to a next state, whatever the source answers (R151, R219). -/
theorem run_total (as : List Answer) (hs : s.Live) (hst : s.st ≠ .idle) : ∃ t, run p as s = .next t := by
  induction as generalizing s with
  | nil =>
    rw [run]
    split
    · exact ⟨_, rfl⟩
    · exact onAnswer_total (s := s.withSrc []) hst (fun h => hs.lt_bufSize h) _
  | cons a as ih =>
    obtain ⟨t, ht⟩ := onAnswer_total (p := p) (s := s.withSrc (sourceAfter p a as)) hst (fun h => hs.lt_bufSize h) a
    by_cases hidle : t.st = .idle
    · exact ⟨t, run_cons_idle ht hidle⟩
    · rw [run_cons_more ht hidle]
      exact ih ((Transition.of_onAnswer ht).budget hs).1 hidle

theorem resume_total (hs : s.Live) : ∃ t, resume p s = .next t := by
  unfold resume
  split
  · exact ⟨s, rfl⟩
  · exact run_total _ hs ‹_›

theorem commanded_inv (hs : Inv p s) : Inv p (commanded s) := by
  unfold commanded
  split
  · exact hs.acceptNext
  · exact hs

theorem flushStale_inv (hs : Inv p s) : Inv p (flushStale p s.src s) :=
  (flushStale_pulled p s).keeps
    (fun _ _ => pullStep_keeps (fun _ as h => h.withSrc as) (fun _ _ e h => decStep_inv e h)) hs

/-- Under the invariant an operation comes to a next state unless its first pull is not answered. -/
theorem decNext_total (hs : Inv p s) (hb : blocked s = false) : ∃ t, decNext p s = .next t := by
  rw [decNext, if_neg (by simp [hb])]
  split
  · exact ⟨_, rfl⟩
  · exact resume_total (flushStale_inv (commanded_inv hs)).live

end

/-- Settles O28: no transition of a live state stops the machine, so a blocked pull is the only stop. -/
theorem stepStopsOnlyOnSilence : Obligations.StepStopsOnlyOnSilence := by
  intro s hs
  rw [step_eq_decNext]
  exact ⟨decNext_total hs, fun hb => by rw [decNext, if_pos hb]⟩

end Sys2Proof.Machine
end

section
/-! PROOFS of 10_state.md: a source at END stays at END, and every later operation delivers END (R36, R184). -/

namespace Sys2Proof.Machine

section
variable {p : Params} {s t u : State}

/-! ### the source at END -/

/-- A pull of a source at END leaves the source and `POS` alone (R29, R36). -/
theorem State.AtEnd.of_pullStep (hp : p.srcFused = true) (h : s.AtEnd p) (ht : Machine.pullStep p s = .next t) :
    t.AtEnd p ∧ t.pos = s.pos := by
  rw [h.pullStep hp, decStep] at ht
  split at ht
  · cases ht; exact ⟨h, rfl⟩
  · have htr := Transition.of_onAnswer ht
    refine ⟨?_, htr.pos_eq⟩
    rw [State.atEnd_iff, htr.src_eq, htr.srcSilent_eq]
    exact State.atEnd_iff.mp h

/-- So does an operation on it. -/
theorem State.AtEnd.of_decNext (hp : p.srcFused = true) (h : s.AtEnd p) (ht : decNext p s = .next t) :
    t.AtEnd p ∧ t.pos = s.pos :=
  decNext_keeps (P := fun u => u.AtEnd p ∧ u.pos = s.pos) (fun _ _ hu => hu)
    (fun _ _ ⟨hend, hpos⟩ hv => (hend.of_pullStep hp hv).imp_right (·.trans hpos)) ⟨h, rfl⟩ ht

/-- So does every move of the decoder and its source. -/
theorem State.AtEnd.of_move (hp : p.srcFused = true) (h : s.AtEnd p) (m : Move p s t) : t.AtEnd p ∧ t.pos = s.pos := by
  cases m with
  | next _ ht =>
    simp only [decStep] at ht
    split at ht
    · cases ht; exact ⟨h, rfl⟩
    · cases ht
  | rst _ ht => cases ht; exact ⟨h, rfl⟩
  | pull _ ht => exact h.of_pullStep hp ht
  | op _ ht => exact h.of_decNext hp ht
  | offer as => exact ⟨h.offer hp as, by simp⟩

/-! ### operations from rest -/

/-- From rest a predicate kept by every answered pull is kept by the operation, which comes to rest again. -/
theorem Ready.keeps {P : State → Prop} (hs : Ready s) (hP : ∀ s t, P s → Answered p s t → P t) (h : P s.acceptNext)
    (ht : decNext p s = .next t) : P t ∧ Ready t := by
  have hQ : ∀ u v, (P u ∧ u.stale = 0 ∧ u.srcSilent = false) → Answered p u v →
      (P v ∧ v.stale = 0 ∧ v.srcSilent = false) := by
    rintro u v ⟨hu, hstale, hsilent⟩ hv
    refine ⟨hP u v hu hv, hv.stale_eq.trans hstale, ?_⟩
    obtain ⟨a, rest, -, htr⟩ := hv
    exact htr.srcSilent_eq.trans hsilent
  rw [decNext_idle p hs.idle hs.fresh] at ht
  obtain ⟨⟨hPt, hstale, hsilent⟩, hend⟩ := run_keeps hQ ⟨h, hs.fresh, hs.answering⟩ ht
  exact ⟨hPt, hend.resolve_right (by simp [State.pullAnswer_none, hsilent]), hstale, hsilent⟩

/-! ### an operation that met END leaves the source at END -/

/-- Neither the end of the sequence nor `UnexpectedTermination`: the items that no END is needed for. -/
def Item.NotOfEnd (i : Item) : Prop := i ≠ .endOfStream ∧ i ≠ .error .unexpectedTermination

theorem itemOf_notOfEnd (k : Kind) (bytes : List Byte) : (itemOf k bytes).NotOfEnd := by
  unfold Item.NotOfEnd
  cases k with
  | unknown => simp [itemOf]
  | ss => simp only [itemOf]; split <;> simp
  | au => simp only [itemOf]; split <;> simp

theorem State.latched_notOfEnd (s : State) : s.latched.NotOfEnd := by
  unfold Item.NotOfEnd State.latched
  cases s.pend <;> simp

/-- An item that a transition on an element delivers is none of those. -/
theorem Transition.item_of_element {a : Answer} (h : Transition p s a t) (ha : a.isElement = true)
    (hs : ∀ i, s.item = some i → i.NotOfEnd) : ∀ i, t.item = some i → i.NotOfEnd := by
  have hcount : ∀ i, (s.count a).item = some i → i.NotOfEnd := by simpa using hs
  cases h with
  | headerEnd | cutShort | skipEnd => cases ha
  | headerByte | oversized | payloadBegins | byteStored | skipBegins | elementSkipped => exact hcount
  | headerError | errorAtLastByte => rintro i ⟨⟩; exact ⟨nofun, nofun⟩
  | emptyPayload | payloadComplete => rintro i ⟨⟩; exact itemOf_notOfEnd _ _
  | skipComplete => rintro i ⟨⟩; exact s.latched_notOfEnd

/-- Either END has been answered since `s`, or every pull since was answered with an element. -/
def EndSeenOrNone (p : Params) (s u : State) : Prop :=
  u.AtEnd p ∨ (u.pos + s.pulls = s.pos + u.pulls ∧ ∀ i, u.item = some i → i.NotOfEnd)

theorem EndSeenOrNone.answered (hp : p.srcFused = true) (h : EndSeenOrNone p s t) (hu : Answered p t u) :
    EndSeenOrNone p s u := by
  obtain ⟨a, rest, ha, htr⟩ := hu
  by_cases hfin : a = .fin
  · subst hfin
    have hrest := State.AtEnd.stays hp ⟨rest, ha⟩
    obtain ⟨-, rfl⟩ : Answer.fin = .fin ∧ t.src = rest := by simpa [ha, eq_comm] using hrest
    left
    rw [State.atEnd_iff, htr.src_eq, htr.srcSilent_eq]
    exact State.atEnd_iff.mp ⟨_, ha⟩
  · have helem : a.isElement = true := by cases a <;> simp_all [Answer.isElement]
    obtain ⟨rest', hend⟩ | ⟨hcount, hitem⟩ := h
    · simp [ha, hfin] at hend
    · right
      have hpos := htr.pos_eq
      have hpulls := htr.pulls_eq
      simp only [helem, if_true, State.withSrc_pos, State.withSrc_pulls] at hpos hpulls
      exact ⟨by omega, htr.item_of_element helem hitem⟩

/-- After an operation that met END the decoder is at rest and the source at END. -/
theorem EndMet.atEnd (hp : p.srcFused = true) (hs : Ready s) (ht : decNext p s = .next t) (h : EndMet s t) :
    Ready t ∧ t.AtEnd p := by
  obtain ⟨hend | ⟨hcount, hitem⟩, hready⟩ :=
    hs.keeps (fun _ _ hu hv => EndSeenOrNone.answered (s := s) hp hu hv) (.inr ⟨rfl, nofun⟩) ht
  · exact ⟨hready, hend⟩
  · obtain h | h | ⟨-, hlt⟩ := h
    · exact absurd rfl (hitem _ h).1
    · exact absurd rfl (hitem _ h).2
    · omega

/-- From rest on a source at END an operation delivers END, consumes nothing and comes to rest (R154). -/
theorem decNext_atEnd (hp : p.srcFused = true) (hs : Ready s) (h : s.AtEnd p) :
    decNext p s = .next ((s.acceptNext.count .fin).emit .endOfStream) := by
  have hans : s.acceptNext.pullAnswer p = some (.fin, s.src) := h.stays hp
  have hstep : onAnswer p .fin (s.acceptNext.withSrc s.src) = .next ((s.acceptNext.count .fin).emit .endOfStream) :=
    onAnswer_hdr0 .fin rfl
  have hrun := run_pullAnswer (p := p) s.acceptNext
  simp only [hans, hstep, State.emit_st, if_true] at hrun
  rw [decNext_idle p hs.idle hs.fresh]
  exact hrun

/-- Such an operation keeps both premises, so that it repeats. -/
theorem items_atEnd (hs : Ready s) (h : s.AtEnd Config.hardware) (n : Nat) :
    items n s = List.replicate n .endOfStream := by
  induction n generalizing s with
  | zero => rfl
  | succ n ih =>
    have hstep := (step_eq_decNext s).trans (decNext_atEnd rfl hs h)
    have hrec := ih (s := (s.acceptNext.count .fin).emit .endOfStream) ⟨rfl, hs.fresh, hs.answering⟩ h
    rw [items, hstep, List.replicate_succ]
    exact congrArg _ hrec

end

/-- Settles O54, by induction on the moves. -/
theorem onceEndAlwaysEnd : Obligations.OnceEndAlwaysEnd := by
  intro p s t hp
  refine ⟨fun rest hrest => ?_, fun hend hm => ?_⟩
  · have hend : s.AtEnd p := ⟨rest, hrest⟩
    obtain ⟨-, rfl⟩ : Answer.fin = .fin ∧ s.src = rest := by simpa [hend.stays hp] using hrest
    exact hend
  · induction hm with
    | none => exact ⟨hend, rfl⟩
    | more u v _ m ih =>
      obtain ⟨hu, hpos⟩ := ih
      exact (hu.of_move hp m).imp_right (·.trans hpos)

/-- Settles O49: an operation that met END leaves the source at END, where an operation delivers END and changes nothing. -/
theorem endIsTerminal : Obligations.EndIsTerminal := by
  constructor
  · intro p s t hp hs ht hmet
    obtain ⟨hready, hend⟩ := hmet.atEnd hp hs ht
    refine ⟨hready, fun as => ⟨(t.acceptNext.count .fin).emit .endOfStream, ?_,
      ⟨rfl, hready.fresh, hready.answering⟩, rfl, .inl rfl, rfl, rfl⟩⟩
    obtain ⟨-, -, ho⟩ | ⟨hsilent, -⟩ := t.offer_cases p as
    · rw [ho]
      exact decNext_atEnd hp hready hend
    · simp [hready.answering] at hsilent
      simp [hsilent] at hp
  · intro s t hs ht hmet
    rw [step_eq_decNext] at ht
    obtain ⟨hready, hend⟩ := hmet.atEnd rfl hs ht
    exact ⟨hready, items_atEnd hready hend⟩

end Sys2Proof.Machine
end

section
/-! PROOFS of 10_state.md: what an operation and an instruction consume, and what an instruction leaves alone. -/

namespace Sys2Proof.Machine

section
variable {p : Params} {s t u : State}

/-! ### what is consumed (R29, R56) -/

/-- Between `s` and `t` the elements at the front of the source were consumed, `POS` counting them, by no more than the pulls. -/
def Consumed (s t : State) : Prop :=
  ∃ consumed, s.src = consumed ++ t.src ∧ (∀ a ∈ consumed, a.isElement = true) ∧
    t.pos = s.pos + consumed.length ∧ t.pos + s.pulls ≤ t.pulls + s.pos

theorem Consumed.of_eq (hsrc : t.src = s.src) (hpos : t.pos = s.pos) (hpulls : t.pulls = s.pulls) : Consumed s t :=
  ⟨[], hsrc.symm, nofun, hpos, by omega⟩

theorem Consumed.trans (h₁ : Consumed s t) (h₂ : Consumed t u) : Consumed s u := by
  obtain ⟨xs, hsrc₁, hx, hpos₁, hle₁⟩ := h₁
  obtain ⟨ys, hsrc₂, hy, hpos₂, hle₂⟩ := h₂
  refine ⟨xs ++ ys, by rw [hsrc₁, hsrc₂, List.append_assoc], fun a ha => ?_, by simp; omega, by omega⟩
  exact (List.mem_append.mp ha).elim (hx a) (hy a)

/-- A fused source keeps its END, so an answer takes from it what it consumes. -/
theorem State.pullAnswer_src {a : Answer} {rest : List Answer} (hp : p.srcFused = true)
    (h : s.pullAnswer p = some (a, rest)) : s.src = (if a.isElement then [a] else []) ++ rest := by
  unfold State.pullAnswer at h
  cases hs : s.src with
  | nil =>
    simp only [hs, Option.ite_none_left_eq_some, Option.some.injEq, Prod.mk.injEq] at h
    obtain ⟨-, rfl, rfl⟩ := h
    rfl
  | cons b bs =>
    simp only [hs, Option.some.injEq, Prod.mk.injEq] at h
    obtain ⟨rfl, rfl⟩ := h
    cases b <;> simp [sourceAfter, Answer.isElement, hp]

theorem Answered.consumed (hp : p.srcFused = true) (h : Answered p s t) : Consumed s t := by
  obtain ⟨a, rest, ha, htr⟩ := h
  have hpos := htr.pos_eq
  have hpulls := htr.pulls_eq
  simp only [State.withSrc_pos, State.withSrc_pulls] at hpos hpulls
  refine ⟨if a.isElement then [a] else [], ?_, ?_, ?_, ?_⟩
  · rw [htr.src_eq]
    exact State.pullAnswer_src hp ha
  · cases a <;> simp [Answer.isElement]
  · rw [hpos]
    cases a <;> rfl
  · rw [hpos, hpulls]
    split <;> omega

/-! ### how many pulls are made -/

/-- `u` is live and can still make no more pulls than are left of `n` pulls since `s`. -/
def WithinPulls (n : Nat) (s u : State) : Prop := u.Live ∧ u.pulls + u.budget ≤ s.pulls + n

theorem WithinPulls.answered {n : Nat} (h : WithinPulls n s t) (hu : Answered p t u) : WithinPulls n s u := by
  obtain ⟨hlive, hle⟩ := h
  obtain ⟨a, rest, -, htr⟩ := hu
  obtain ⟨hlive', hlt⟩ := htr.budget hlive
  have hpulls := htr.pulls_eq
  have hbudget : (t.withSrc rest).budget = t.budget := rfl
  rw [hbudget] at hlt
  rw [State.withSrc_pulls] at hpulls
  exact ⟨hlive', by omega⟩

/-- The header being complete, its length is the number of pulls left (R180). -/
theorem acceptHeader_withinPulls (l : U13) (k : Kind) (s : State) : WithinPulls l.toNat s (acceptHeader p l k s) := by
  obtain ⟨hmax, h⟩ | ⟨-, -, h⟩ | ⟨-, hl, h⟩ := acceptHeader_cases p l k s <;>
    rw [h, WithinPulls, State.Live]
  · rw [State.budget_skip rfl]
    exact ⟨fun _ => Nat.zero_lt_of_lt hmax, le_rfl⟩
  · rw [State.budget_idle rfl]
    exact ⟨fun h => absurd rfl h, Nat.le_add_right _ _⟩
  · rw [State.budget_payload rfl]
    exact ⟨fun _ => one_le_toNat hl, le_rfl⟩

theorem execHeader_pulls_le {l : U13} {k : Kind} (ht : execHeader p l k s = .next t) : t.pulls ≤ s.pulls + l.toNat := by
  have h := (resume_keeps (fun _ _ hu hv => WithinPulls.answered hu hv) (acceptHeader_withinPulls l k s) ht).1
  exact (Nat.le_add_right _ _).trans h.2

/-- From rest on a header of two bytes a step is the instruction they decode to (R158). -/
theorem decNext_header {b0 b1 : Byte} {rest : List Answer} (hs : Ready s) (hsrc : s.src = .byte b0 :: .byte b1 :: rest) :
    ∃ u, u.pulls = s.pulls + 2 ∧
      decNext p s = execHeader p (decodeHeader b0 b1).length (decodeHeader b0 b1).kind u := by
  rw [decNext_idle p hs.idle hs.fresh, hsrc, run_first_byte rfl, run_second_byte rfl]
  exact ⟨_, rfl, rfl⟩

/-- The pull for header byte 0 at least is answered. -/
theorem decNext_pulls_lt (hs : Ready s) (ht : decNext p s = .next t) : s.pulls < t.pulls := by
  have hP : ∀ u v, (s.pulls ≤ u.pulls ∧ (u.st = .idle → s.pulls < u.pulls)) → Answered p u v →
      (s.pulls ≤ v.pulls ∧ (v.st = .idle → s.pulls < v.pulls)) := by
    rintro u v ⟨hle, -⟩ ⟨a, rest, -, htr⟩
    have hpulls := htr.pulls_eq
    rw [State.withSrc_pulls] at hpulls
    exact ⟨by omega, fun _ => by omega⟩
  obtain ⟨⟨-, hlt⟩, hready⟩ := hs.keeps hP ⟨le_rfl, nofun⟩ ht
  exact hlt hready.idle

theorem decNext_pulls_le (hs : Ready s) (ht : decNext p s = .next t) : t.pulls ≤ s.pulls + 8193 := by
  have hstart : WithinPulls 8193 s s.acceptNext := by
    rw [WithinPulls, State.Live, State.budget_hdr0 rfl]
    exact ⟨fun _ => by omega, le_rfl⟩
  obtain ⟨⟨-, hle⟩, -⟩ := hs.keeps (fun _ _ hu hv => WithinPulls.answered hu hv) hstart ht
  omega

theorem decNext_consumed (hp : p.srcFused = true) (hs : Ready s) (ht : decNext p s = .next t) : Consumed s t :=
  (hs.keeps (fun _ _ hu hv => Consumed.trans hu (hv.consumed hp)) (.of_eq rfl rfl rfl) ht).1

/-! ### what an instruction leaves alone -/

theorem Kept.trans (h₁ : Kept s t) (h₂ : Kept t u) : Kept s u where
  b0 := h₂.b0.trans h₁.b0
  len := h₂.len.trans h₁.len
  kind := h₂.kind.trans h₁.kind
  stale := h₂.stale.trans h₁.stale
  src := h₂.src.trans h₁.src
  srcSilent := h₂.srcSilent.trans h₁.srcSilent
  buf a ha := (h₂.buf a (h₁.len ▸ ha)).trans (h₁.buf a ha)

theorem Kept.withSrc (h : Kept s t) (as : List Answer) : Kept (s.withSrc as) (t.withSrc as) :=
  ⟨h.b0, h.len, h.kind, h.stale, rfl, h.srcSilent, h.buf⟩

/-- After its header an operation stays past it, and keeps what no transition there writes but the source. -/
def KeptPastHeader (s u : State) : Prop := (u.Active ∨ u.st = .idle) ∧ Kept (s.withSrc u.src) u

theorem KeptPastHeader.answered (h : KeptPastHeader s t) (hu : Answered p t u) : KeptPastHeader s u := by
  obtain ⟨hactive, hkept⟩ := h
  obtain ⟨a, rest, -, htr⟩ := hu
  have hact : t.Active := hactive.resolve_right htr.ne_idle
  obtain ⟨v, hv, hend, hk⟩ := onAnswer_active (p := p) a (hact.withSrc rest)
  obtain rfl : u = v := by simpa [htr.onAnswer_eq] using hv
  rw [KeptPastHeader, htr.src_eq]
  exact ⟨hend.imp_right And.left, (hkept.withSrc rest).trans hk⟩

theorem acceptHeader_kept (p : Params) (l : U13) (k : Kind) (s : State) :
    KeptPastHeader (s.latchHeader l k) (acceptHeader p l k s) := by
  refine ⟨(acceptHeader_active p l k s).imp_right And.left, ?_⟩
  obtain ⟨-, h⟩ | ⟨-, -, h⟩ | ⟨-, -, h⟩ := acceptHeader_cases p l k s <;> rw [h] <;> constructor <;> simp

theorem acceptHeader_consumed (p : Params) (l : U13) (k : Kind) (s : State) : Consumed s (acceptHeader p l k s) := by
  obtain ⟨-, h⟩ | ⟨-, -, h⟩ | ⟨-, -, h⟩ := acceptHeader_cases p l k s <;> rw [h] <;> exact .of_eq rfl rfl rfl

/-- `DEC.REM`, `DEC.PEND` and `DEC.PERR` are those of `s`, or a transport error was met: it is latched for the end of the skip, or
delivered (R166, R171). -/
def LatchFrame (s u : State) : Prop :=
  ((u.st = .payload ∨ u.st = .idle) ∧ u.rem = s.rem ∧ u.pend = s.pend ∧ u.perr = s.perr) ∨
  (u.st = .skip ∧ u.pend = .transport) ∨
  (u.st = .idle ∧ ∃ e, u.item = some (.error (.transport e)))

theorem LatchFrame.transition {a : Answer} (h : LatchFrame s t) (htr : Transition p t a u) : LatchFrame s u := by
  obtain ⟨hst | hst, hlatch⟩ | ⟨hst, hpend⟩ | ⟨hst, -⟩ := h
  · cases htr with
    | byteStored => exact .inl ⟨.inl (by simpa using hst), by simpa using hlatch⟩
    | payloadComplete | cutShort => exact .inl ⟨.inr rfl, by simpa using hlatch⟩
    | errorAtLastByte e => exact .inr (.inr ⟨rfl, e, rfl⟩)
    | skipBegins => exact .inr (.inl ⟨rfl, rfl⟩)
    | _ => simp_all
  · exact absurd hst htr.ne_idle
  · cases htr with
    | elementSkipped => exact .inr (.inl ⟨by simpa using hst, by simpa using hpend⟩)
    | skipComplete | skipEnd => exact .inr (.inr ⟨rfl, t.perr, by simp [State.latched, hpend]⟩)
    | _ => simp_all
  · exact absurd hst htr.ne_idle

theorem LatchFrame.answered (h : LatchFrame s t) (hu : Answered p t u) : LatchFrame s u := by
  obtain ⟨a, rest, -, htr⟩ := hu
  exact LatchFrame.transition (t := t.withSrc rest) h htr

/-- Within the ceiling the header transition latches no error (R161, R162). -/
theorem acceptHeader_latchFrame {l : U13} (hmax : l.toNat ≤ p.maxPayload) (k : Kind) (s : State) :
    LatchFrame s (acceptHeader p l k s) := by
  obtain ⟨h, -⟩ | ⟨-, -, h⟩ | ⟨-, -, h⟩ := acceptHeader_cases p l k s
  · omega
  · exact h ▸ .inl ⟨.inr rfl, rfl, rfl, rfl⟩
  · exact h ▸ .inl ⟨.inl rfl, rfl, rfl, rfl⟩

end

/-- Settles O45: every pull uses up some of the budget that the state has, and consumes what it was answered. -/
theorem pullBounds : Obligations.PullBounds := by
  intro s t hs ht
  rw [step_eq_decNext] at ht
  refine ⟨decNext_pulls_lt hs ht, decNext_pulls_le hs ht, fun b0 b1 rest hsrc => ?_, decNext_consumed rfl hs ht⟩
  obtain ⟨u, hu, hexec⟩ := decNext_header (p := Config.hardware) hs hsrc
  exact hu ▸ execHeader_pulls_le (hexec ▸ ht)

/-- Settles O38: each part of the frame is a predicate that the header transition has and every answered pull keeps. -/
theorem instructionFrame : Obligations.InstructionFrame := by
  intro i s t ht
  rw [exec_eq_execHeader] at ht
  obtain ⟨-, hkept⟩ := (resume_keeps (fun _ _ hu hv => KeptPastHeader.answered hu hv) (acceptHeader_kept _ _ _ s) ht).1
  have hlatch := (resume_keeps (fun _ _ hu hv => LatchFrame.answered hu hv)
    (acceptHeader_latchFrame (length_le_hardware i.length) i.kind s) ht).1
  obtain ⟨consumed, hsrc, helem, hpos, hle⟩ := (resume_keeps (fun _ _ hu hv => Consumed.trans hu (hv.consumed rfl))
    (acceptHeader_consumed Config.hardware i.length i.kind s) ht).1
  have hpulls := execHeader_pulls_le ht
  refine ⟨hkept.b0, hkept.stale, hkept.srcSilent, hkept.len, hkept.kind, hkept.buf, fun hst hitem => ?_,
    consumed, hsrc, helem, by omega, hpos⟩
  obtain ⟨-, hlatch⟩ | ⟨hskip, -⟩ | ⟨-, e, he⟩ := hlatch
  · exact hlatch
  · exact absurd hskip hst
  · exact absurd he (hitem e)

end Sys2Proof.Machine
end

section
/-! PROOFS of 10_state.md: an operation reads no register that it has not written (R20, R41), and waiting loses nothing (R185). -/

namespace Sys2Proof.Machine

section
variable {p : Params} {s s' t t' : State} {a : Answer}

/-! ### two decoders that agree on what is live -/

/-- The two agree on the state, the item, the source, and on the registers and the bytes of `BUF` that are live there (R41). -/
structure Alike (s s' : State) : Prop where
  st : s.st = s'.st
  item : s.item = s'.item
  src : s.src = s'.src
  srcSilent : s.srcSilent = s'.srcSilent
  b0 : s.st = .hdr1 → s.b0 = s'.b0
  payload : s.st = .payload → s.len = s'.len ∧ s.kind = s'.kind ∧ s.idx = s'.idx
  buf : s.st = .payload → ∀ k < s.idx.toNat, s.buf.read k = s'.buf.read k
  skip : s.st = .skip → s.rem = s'.rem ∧ s.latched = s'.latched

namespace Alike

theorem emit (hsrc : s.src = s'.src) (hsilent : s.srcSilent = s'.srcSilent) {i i' : Item} (hi : i = i') :
    Alike (s.emit i) (s'.emit i') :=
  ⟨rfl, congrArg some hi, hsrc, hsilent, nofun, nofun, nofun, nofun⟩

theorem withSrc (h : Alike s s') (as : List Answer) : Alike (s.withSrc as) (s'.withSrc as) :=
  ⟨h.st, h.item, rfl, h.srcSilent, h.b0, h.payload, h.buf, h.skip⟩

theorem acceptNext (hsrc : s.src = s'.src) (hsilent : s.srcSilent = s'.srcSilent) :
    Alike s.acceptNext s'.acceptNext :=
  ⟨rfl, rfl, hsrc, hsilent, nofun, nofun, nofun, nofun⟩

end Alike

/-- Memories that agree on a range read alike there. -/
theorem Memory.readBytes_congr {m m' : Memory} {c n : Nat} (h : ∀ k, k < c + n → m.read k = m'.read k) :
    m.readBytes c n = m'.readBytes c n := by
  induction n generalizing c with
  | zero => rfl
  | succ n ih =>
    rw [Memory.readBytes, Memory.readBytes, h c (by omega), ih (fun k hk => h k (by omega))]

/-- The same byte written at the next index extends the agreement by that index. -/
theorem Memory.read_write_congr {m m' : Memory} {c : Nat} (b : Byte) (h : ∀ k < c, m.read k = m'.read k) :
    ∀ k < c + 1, (m.write c b).read k = (m'.write c b).read k := by
  intro k hk
  by_cases hc : k = c
  · rw [hc, Memory.read_write_same, Memory.read_write_same]
  · rw [Memory.read_write_other m b hc, Memory.read_write_other m' b hc, h k (by omega)]

theorem succ_toNat_le (i : U13) : (i + 1).toNat ≤ i.toNat + 1 := by
  rw [BitVec.toNat_add]
  exact Nat.mod_le _ _

/-- A transition of the one is a transition of the other, to a state that agrees again. -/
theorem Transition.alike (htr : Transition p s a t) (h : Alike s s') : ∃ t', Transition p s' a t' ∧ Alike t t' := by
  have hst' := h.st
  have hitem : (s.count a).item = (s'.count a).item := by simpa using h.item
  have hsrc : (s.count a).src = (s'.count a).src := by simpa using h.src
  have hsilent : (s.count a).srcSilent = (s'.count a).srcSilent := by simpa using h.srcSilent
  cases htr with
  | headerEnd hst => exact ⟨_, .headerEnd (hst' ▸ hst), .emit hsrc hsilent rfl⟩
  | headerByte b hst =>
    exact ⟨_, .headerByte b (hst' ▸ hst), rfl, hitem, hsrc, hsilent, fun _ => rfl, nofun, nofun, nofun⟩
  | headerError e hst => exact ⟨_, .headerError e (hst' ▸ hst), .emit hsrc hsilent rfl⟩
  | cutShort hst => exact ⟨_, .cutShort (hst' ▸ hst), .emit hsrc hsilent rfl⟩
  | oversized b l k hst hu hmax =>
    exact ⟨_, .oversized b l k (hst' ▸ hst) (h.b0 hst ▸ hu) hmax, rfl, hitem, hsrc, hsilent, nofun, nofun, nofun,
      fun _ => ⟨rfl, rfl⟩⟩
  | emptyPayload b l k hst hu hmax hl =>
    exact ⟨_, .emptyPayload b l k (hst' ▸ hst) (h.b0 hst ▸ hu) hmax hl,
      .emit (by simpa using h.src) (by simpa using h.srcSilent) rfl⟩
  | payloadBegins b l k hst hu hmax hl =>
    exact ⟨_, .payloadBegins b l k (hst' ▸ hst) (h.b0 hst ▸ hu) hmax hl, rfl, hitem, hsrc, hsilent, nofun,
      fun _ => ⟨rfl, rfl, rfl⟩, fun _ k hk => absurd hk (Nat.not_lt_zero k), nofun⟩
  | byteStored b hst hbuf hmore =>
    obtain ⟨hlen, hkind, hidx⟩ := h.payload hst
    have hread := Memory.read_write_congr b (h.buf hst)
    have hle := succ_toNat_le s.idx
    refine ⟨_, .byteStored b (hst' ▸ hst) (hidx ▸ hbuf) (hidx ▸ hlen ▸ hmore), hst', hitem, hsrc, hsilent,
      fun h1 => ?_, fun _ => ⟨hlen, hkind, congrArg (· + 1) hidx⟩, fun _ k hk => ?_, fun h1 => ?_⟩
    · simp [hst] at h1
    · rw [State.storeByte_buf, State.storeByte_buf]
      simp only [State.count_buf, State.count_idx, ← hidx]
      exact hread k (hk.trans_le hle)
    · simp [hst] at h1
  | payloadComplete b hst hbuf hlast =>
    obtain ⟨hlen, hkind, hidx⟩ := h.payload hst
    have hread := Memory.read_write_congr b (h.buf hst)
    have hle := succ_toNat_le s.idx
    refine ⟨_, .payloadComplete b (hst' ▸ hst) (hidx ▸ hbuf) (hidx ▸ hlen ▸ hlast),
      .emit (by simpa using h.src) (by simpa using h.srcSilent) ?_⟩
    have hpayload : ((s.count (.byte b)).storeByte b).payload = ((s'.count (.byte b)).storeByte b).payload := by
      simp only [State.payload, State.storeByte_buf, State.storeByte_len, State.count_buf, State.count_idx,
        State.count_len, ← hidx, ← hlen]
      refine Memory.readBytes_congr fun k hk => hread k ?_
      rw [← hlast] at hk
      omega
    rw [hpayload, hkind]
  | errorAtLastByte e hst howed =>
    obtain ⟨hlen, -, hidx⟩ := h.payload hst
    exact ⟨_, .errorAtLastByte e (hst' ▸ hst) (hidx ▸ hlen ▸ howed),
      .emit (by simpa using h.src) (by simpa using h.srcSilent) rfl⟩
  | skipBegins e hst howed =>
    obtain ⟨hlen, -, hidx⟩ := h.payload hst
    exact ⟨_, .skipBegins e (hst' ▸ hst) (hidx ▸ hlen ▸ howed), rfl, hitem, hsrc, hsilent, nofun, nofun, nofun,
      fun _ => ⟨by simp [hlen, hidx], rfl⟩⟩
  | elementSkipped a ha hst hmore =>
    obtain ⟨hrem, hlatched⟩ := h.skip hst
    refine ⟨_, .elementSkipped a ha (hst' ▸ hst) (hrem ▸ hmore), by simpa using hst', hitem, hsrc, hsilent,
      fun h1 => ?_, fun h1 => ?_, fun h1 => ?_, fun _ => ⟨by simp [hrem], by simpa [State.latched] using hlatched⟩⟩ <;>
      simp [hst] at h1
  | skipComplete a ha hst hlast =>
    obtain ⟨hrem, hlatched⟩ := h.skip hst
    exact ⟨_, .skipComplete a ha (hst' ▸ hst) (hrem ▸ hlast),
      .emit (by simpa using h.src) (by simpa using h.srcSilent) hlatched⟩
  | skipEnd hst => exact ⟨_, .skipEnd (hst' ▸ hst), .emit hsrc hsilent (h.skip hst).2⟩

/-- `POS` and the pulls advance alike from `s` to `t` and from `s'` to `t'`. -/
def AdvanceAlike (s s' t t' : State) : Prop :=
  t.pos + s'.pos = t'.pos + s.pos ∧ t.pulls + s'.pulls = t'.pulls + s.pulls

/-- One answer counts the same in both. -/
theorem AdvanceAlike.of_transitions {as : List Answer} (h : Transition p (s.withSrc as) a t)
    (h' : Transition p (s'.withSrc as) a t') : AdvanceAlike s s' t t' := by
  constructor
  · rw [h.pos_eq, h'.pos_eq]
    simp only [State.withSrc_pos]
    omega
  · rw [h.pulls_eq, h'.pulls_eq]
    simp only [State.withSrc_pulls]
    omega

theorem AdvanceAlike.trans {u u' : State} (h₁ : AdvanceAlike s s' t t') (h₂ : AdvanceAlike t t' u u') :
    AdvanceAlike s s' u u' := by
  obtain ⟨h1, h2⟩ := h₁
  obtain ⟨h3, h4⟩ := h₂
  constructor <;> omega

/-- A run of the one is a run of the other on the same answers. -/
theorem run_alike (as : List Answer) (h : Alike s s') (ht : run p as s = .next t) :
    ∃ t', run p as s' = .next t' ∧ Alike t t' ∧ AdvanceAlike s s' t t' := by
  induction as generalizing s s' with
  | nil =>
    rw [run] at ht ⊢
    rw [← h.srcSilent]
    split at ht
    · cases ht
      exact ⟨_, by rw [if_pos ‹_›], h.withSrc [], Nat.add_comm _ _, Nat.add_comm _ _⟩
    · have htr := Transition.of_onAnswer ht
      obtain ⟨t', htr', halike⟩ := htr.alike (h.withSrc [])
      exact ⟨t', by rw [if_neg ‹_›, htr'.onAnswer_eq], halike, .of_transitions htr htr'⟩
  | cons a as ih =>
    rw [run] at ht
    split at ht
    · rename_i u hu
      have htr := Transition.of_onAnswer hu
      obtain ⟨u', htr', halike⟩ := htr.alike (h.withSrc (sourceAfter p a as))
      have hadv : AdvanceAlike s s' u u' := AdvanceAlike.of_transitions htr htr'
      split at ht
      · rename_i hidle
        cases ht
        exact ⟨u', run_cons_idle htr'.onAnswer_eq (halike.st ▸ hidle), halike, hadv⟩
      · rename_i hidle
        obtain ⟨t', ht', halike', hadv'⟩ := ih halike ht
        exact ⟨t', (run_cons_more htr'.onAnswer_eq (halike.st ▸ hidle)).trans ht', halike', hadv.trans hadv'⟩
    · cases ht
    · cases ht

/-! ### waiting -/

/-- The same decoder before another source. -/
def State.before (s : State) (as : List Answer) (silent : Bool) : State := { s with src := as, srcSilent := silent }

theorem State.count_before (s : State) (a : Answer) (as : List Answer) (q : Bool) :
    (s.before as q).count a = (s.count a).before as q := by cases a <;> rfl

/-- A transition does not look at what the source is still to give. -/
theorem Transition.before (h : Transition p s a t) (as : List Answer) (q : Bool) :
    Transition p (s.before as q) a (t.before as q) := by
  cases h with
  | headerEnd hst => exact .headerEnd hst
  | headerByte b hst => exact .headerByte b hst
  | headerError e hst => exact .headerError e hst
  | cutShort hst => exact .cutShort hst
  | oversized b l k hst hu hmax => exact .oversized b l k hst hu hmax
  | emptyPayload b l k hst hu hmax hl => exact .emptyPayload b l k hst hu hmax hl
  | payloadBegins b l k hst hu hmax hl => exact .payloadBegins b l k hst hu hmax hl
  | byteStored b hst hbuf hmore => exact .byteStored b hst hbuf hmore
  | payloadComplete b hst hbuf hlast => exact .payloadComplete b hst hbuf hlast
  | errorAtLastByte e hst howed => exact .errorAtLastByte e hst howed
  | skipBegins e hst howed => exact .skipBegins e hst howed
  | elementSkipped a ha hst hmore =>
    have := Transition.elementSkipped (p := p) (s := s.before as q) a ha hst hmore
    rwa [State.count_before] at this
  | skipComplete a ha hst hlast =>
    have := Transition.skipComplete (p := p) (s := s.before as q) a ha hst hlast
    rwa [State.count_before] at this
  | skipEnd hst => exact .skipEnd hst

/-- A run that comes to wait goes on, when further answers come, as it would have with them there from the start. -/
theorem run_append_of_waiting (as bs : List Answer) (q : Bool) (ht : run p as s = .next t) (hst : t.st ≠ .idle) :
    run p (as ++ bs) (s.before [] q) = run p bs (t.before [] q) := by
  induction as generalizing s with
  | nil =>
    rw [run] at ht
    split at ht
    · cases ht; rfl
    · exact absurd (Transition.of_onAnswer ht).idle_of_fin hst
  | cons a as ih =>
    rw [run] at ht
    split at ht
    · rename_i u hu
      have htr := Transition.of_onAnswer hu
      split at ht
      · cases ht; exact absurd ‹_› hst
      · rename_i hidle
        have hstep := htr.before (sourceAfter p a (as ++ bs)) q
        rw [List.cons_append, run_cons_more (t := u.before (sourceAfter p a (as ++ bs)) q) hstep.onAnswer_eq hidle, ← ih ht]
        exact run_withSrc _ _ (u.before [] q)
    · cases ht
    · cases ht

/-- Resuming an operation whose pull is answered: there is no `next` to accept (R153). -/
theorem decNext_busy (hst : s.st ≠ .idle) (hstale : s.stale = 0) (hsilent : s.srcSilent = false) :
    decNext p s = run p s.src s := by
  have hb : blocked s = false := by simp [blocked, hsilent]
  have hc : commanded s = s := if_neg hst
  rw [decNext, hb, hc, flushStale_fresh p hstale]
  simp [hstale, resume, hst]

end

/-- Settles O50: at rest no register is live, so two decoders at rest agree on all that is. -/
theorem itemsIndependentOfRegisters : Obligations.ItemsIndependentOfRegisters := by
  intro s s' t t' hs hs' hsrc ht ht'
  rw [step_eq_decNext, decNext_idle _ hs.idle hs.fresh] at ht
  rw [step_eq_decNext, decNext_idle _ hs'.idle hs'.fresh, ← hsrc] at ht'
  have hstart := Alike.acceptNext hsrc (hs.answering.trans hs'.answering.symm)
  obtain ⟨u', hu', halike, hpos, hpulls⟩ := run_alike s.src hstart ht
  obtain rfl : t' = u' := by simpa [ht'] using hu'
  exact ⟨halike.item, halike.src, hpos, hpulls⟩

/-- Settles O52: the waiting state is one that the operation with all the answers there passes through. -/
theorem waitingLosesNothing : Obligations.WaitingLosesNothing := by
  intro s t more hstale hidle ht hst
  have hwait : run Config.hardware s.src (s.before s.src true).acceptNext = .next t := by
    rw [← ht, step_eq_decNext]
    exact (decNext_idle _ (s := s.before s.src true) hidle hstale).symm
  have hfresh : t.stale = 0 :=
    (run_keeps (P := fun u => u.stale = 0) (s := (s.before s.src true).acceptNext)
      (fun _ _ hu hv => hv.stale_eq.trans hu) hstale hwait).1
  calc step (t.before more false) = run Config.hardware more (t.before more false) := by
        rw [step_eq_decNext]
        exact decNext_busy hst hfresh rfl
    _ = run Config.hardware more (t.before [] false) := run_withSrc more more (t.before [] false)
    _ = run Config.hardware (s.src ++ more) ((s.before s.src true).acceptNext.before [] false) :=
        (run_append_of_waiting s.src more false hwait hst).symm
    _ = run Config.hardware (s.src ++ more) (s.before (s.src ++ more) false).acceptNext :=
        (run_withSrc _ (s.src ++ more) _).symm
    _ = step (s.before (s.src ++ more) false) := by
        rw [step_eq_decNext]
        exact (decNext_idle _ (s := s.before (s.src ++ more) false) hidle hstale).symm

end Sys2Proof.Machine
end

section
/-! PROOFS of 20_memory.md: what `BUF` reads after a complete payload (R52, R164), and the start of a step at the byte source (R65). -/

namespace Sys2Proof.Machine

/-- A read within a stretch of bytes just written. -/
theorem Memory.read_writeBytes_inside (m : Memory) (a : Nat) (bs : List Byte) {k : Nat} (h : k < bs.length) :
    (m.writeBytes a bs).read (a + k) = bs[k] := by
  induction bs generalizing m a k with
  | nil => cases h
  | cons b bs ih =>
    rw [Memory.writeBytes]
    cases k with
    | zero => rw [Memory.read_writeBytes_outside bs _ _ _ (by omega), Nat.add_zero, Memory.read_write_same, List.getElem_cons_zero]
    | succ k =>
      have hshift : a + (k + 1) = a + 1 + k := by omega
      rw [hshift, ih _ _ (Nat.lt_of_succ_lt_succ h), List.getElem_cons_succ]

/-- A complete payload is written to `BUF` from index 0 on, and nothing else is (R164). -/
theorem exec_buf_of_complete {i : Instr} {s t : State} {bytes : List Byte} {rest : List Answer}
    (hsrc : s.src = byteAnswers bytes ++ rest) (hlen : bytes.length = i.length.toNat) (ht : exec i s = .next t) :
    t.buf = s.buf.writeBytes 0 bytes := by
  rw [exec_eq_execHeader, execHeader_complete bytes rest (length_le_hardware i.length) hsrc hlen] at ht
  cases ht
  rfl

/-- Settles O33: a read inside the payload written at 0, and a read behind it. -/
theorem bufferAfterCompletePayload : Obligations.BufferAfterCompletePayload := by
  intro i s t bytes rest hsrc hlen ht
  rw [exec_buf_of_complete hsrc hlen ht]
  constructor
  · intro k hk
    simpa using s.buf.read_writeBytes_inside 0 bytes hk
  · intro a ha
    exact Memory.read_writeBytes_outside bytes s.buf 0 a (.inr (by omega))

/-- From rest, two bytes next in the source are fetched as a header, `B0` holding the first (R155, R158). -/
theorem fetch_header (p : Params) {s : State} {b0 b1 : Byte} {rest : List Answer} (hst : s.st = .idle) (hstale : s.stale = 0)
    (hsrc : s.src = .byte b0 :: .byte b1 :: rest) :
    fetch p s = .header (decodeHeader b0 b1) { s with
      st := .hdr1, b0 := b0, item := none, src := rest, pos := s.pos + 2, pulls := s.pulls + 2 } := by
  rw [fetch_idle p hst hstale, fetchFirst, State.acceptNext_src, hsrc]
  rfl

/-- Settles O41: the two bytes fetched are the header whose instruction runs. -/
theorem stepRunsDecodedInstruction : Obligations.StepRunsDecodedInstruction := by
  intro s b0 b1 rest i hst hstale hsrc hdec
  obtain rfl : decodeHeader b0 b1 = i := by
    cases hdec
    rfl
  rw [step, fetch_header _ hst hstale hsrc]

end Sys2Proof.Machine
end

section
/-! PROOFS of 30_encoding.md: decoding and encoding are inverse (R99), the type-code table (R82, R89), the codes of the ports (R93 to R96). -/

namespace Sys2Proof.Machine

/-! ### an instruction is its type code and its length -/

theorem instrOfType_typeCode_length (i : Instr) : instrOfType i.typeCode i.length = i := by
  cases i <;> rfl

/-- The type code is the one the row was selected by (R89). -/
theorem instrOfType_typeCode (ty : U3) (l : U13) : (instrOfType ty l).typeCode = ty := by
  have hzero : ∀ ty : U3, (instrOfType ty 0).typeCode = ty := by decide
  have hlength : (instrOfType ty l).typeCode = (instrOfType ty 0).typeCode := by
    unfold instrOfType
    split <;> rfl
  exact hlength.trans (hzero ty)

/-- The kind of every instruction is that of its type code (R84). -/
theorem kind_eq_kindOf (i : Instr) : i.kind = kindOf i.typeCode := by
  rw [← instrOfType_kind i.typeCode i.length, instrOfType_typeCode_length]

theorem kindOf_eq_unknown_iff : ∀ ty : U3, kindOf ty = .unknown ↔ ty ≠ 1 ∧ ty ≠ 2 := by decide

/-! ### the two header bytes as numbers (R81) -/

theorem encodeByte0_toNat (i : Instr) : (encodeByte0 i).toNat = i.length.toNat / 32 := by
  have hl := i.length.isLt
  rw [encodeByte0, BitVec.extractLsb'_toNat, Nat.shiftRight_eq_div_pow]
  omega

theorem encodeByte1_toNat (i : Instr) : (encodeByte1 i).toNat = i.length.toNat % 32 * 8 + i.typeCode.toNat := by
  rw [encodeByte1, BitVec.toNat_append, shift_or_low _ 3 _ i.typeCode.isLt, BitVec.extractLsb'_toNat, Nat.shiftRight_zero]
  rfl

/-! ### decoding and encoding -/

theorem decodeHeader_typeCode (b0 b1 : Byte) : (decodeHeader b0 b1).typeCode = headerType b1 := by
  rw [decodeHeader_eq, instrOfType_typeCode]

theorem decodeHeader_length (b0 b1 : Byte) : (decodeHeader b0 b1).length = headerLength b0 b1 := by
  rw [decodeHeader_eq, instrOfType_length]

/-- The two bytes written hold the type code and the length (R83, R84). -/
theorem decodeHeader_encodeBytes (i : Instr) : decodeHeader (encodeByte0 i) (encodeByte1 i) = i := by
  have hty : headerType (encodeByte1 i) = i.typeCode := by
    apply BitVec.eq_of_toNat_eq
    rw [headerType_toNat, encodeByte1_toNat]
    omega
  have hlen : headerLength (encodeByte0 i) (encodeByte1 i) = i.length := by
    apply BitVec.eq_of_toNat_eq
    rw [headerLength_toNat, encodeByte0_toNat, encodeByte1_toNat]
    omega
  rw [decodeHeader_eq, hty, hlen, instrOfType_typeCode_length]

theorem decode_encode (i : Instr) (rest : List Byte) : decode (encode i ++ rest) = .ok (i, rest) :=
  congrArg (fun j => Except.ok (j, rest)) (decodeHeader_encodeBytes i)

theorem encode_decodeHeader (b0 b1 : Byte) : encode (decodeHeader b0 b1) = [b0, b1] := by
  have hb0 : encodeByte0 (decodeHeader b0 b1) = b0 := by
    apply BitVec.eq_of_toNat_eq
    rw [encodeByte0_toNat, decodeHeader_length, headerLength_toNat]
    omega
  have hb1 : encodeByte1 (decodeHeader b0 b1) = b1 := by
    apply BitVec.eq_of_toNat_eq
    rw [encodeByte1_toNat, decodeHeader_length, decodeHeader_typeCode, headerLength_toNat, headerType_toNat]
    omega
  rw [encode, hb0, hb1]

/-- Settles O1: the bytes and the pair (type, length) determine each other, as numbers. -/
theorem headerCodeIsBijection : Obligations.HeaderCodeIsBijection := by
  refine ⟨decode_encode, encode_decodeHeader, fun ty l => ⟨instrOfType_typeCode ty l, instrOfType_length ty l⟩,
    instrOfType_typeCode_length, fun i => ?_⟩
  rw [kind_eq_kindOf, kindOf_eq_unknown_iff]

/-! ### the type-code table (R89) -/

/-- Every row masks the low three bits, and its pattern and its kind are those of its code. -/
theorem typeTable_row : ∀ r ∈ typeTable, r.mask = 0x0007 ∧ r.pattern = r.code.setWidth 16 ∧ r.kind = kindOf r.code := by decide

theorem exists_row_of_code : ∀ ty : U3, ∃ r ∈ typeTable, r.code = ty := by decide

/-- Under the mask of the rows a header word is its type code (R82). -/
theorem headerWord_and_mask (b0 b1 : Byte) : headerWord b0 b1 &&& 0x0007 = (headerType b1).setWidth 16 := by
  apply BitVec.eq_of_toNat_eq
  have hlow : (headerWord b0 b1 &&& 0x0007).toNat = (headerWord b0 b1).toNat % 8 :=
    (BitVec.toNat_and _ _).trans (and_low_bits _ 3)
  rw [hlow, headerWord_toNat, BitVec.toNat_setWidth, headerType_toNat]
  omega

theorem setWidth_type_inj {ty ty' : U3} : ty.setWidth 16 = ty'.setWidth 16 ↔ ty = ty' :=
  ⟨fun h => by simpa using congrArg (BitVec.setWidth 3) h, congrArg _⟩

/-- A word is of a row exactly when the row's code is the type decoded. -/
theorem headerWord_matches_iff {r : TypeRow} (hr : r ∈ typeTable) (b0 b1 : Byte) :
    headerWord b0 b1 &&& r.mask = r.pattern ↔ (decodeHeader b0 b1).typeCode = r.code := by
  obtain ⟨hmask, hpattern, -⟩ := typeTable_row r hr
  rw [hmask, hpattern, headerWord_and_mask, decodeHeader_typeCode]
  exact setWidth_type_inj

/-- Settles O2: every type code has a row, and matching a row is having its code. -/
theorem headerWordSelectsOneTableRow : Obligations.HeaderWordSelectsOneTableRow := by
  intro b0 b1
  refine ⟨?_, ?_, ?_, ?_, ?_⟩
  · rw [decodeHeader_length, headerLength_toNat, headerWord_toNat]
    omega
  · rw [decodeHeader_typeCode, headerType_toNat, headerWord_toNat]
    omega
  · rw [headerWord_toNat, Nat.mul_comm]
  · obtain ⟨r, hr, hcode⟩ := exists_row_of_code (decodeHeader b0 b1).typeCode
    exact ⟨r, hr, (headerWord_matches_iff hr b0 b1).mpr hcode.symm⟩
  · intro r hr hmatch
    have hcode := (headerWord_matches_iff hr b0 b1).mp hmatch
    obtain ⟨-, -, hkind⟩ := typeTable_row r hr
    exact ⟨hcode, by rw [kind_eq_kindOf, hcode, hkind]⟩

/-- Settles O3: each word is evaluated. -/
theorem handWrittenWordsDecode : Obligations.HandWrittenWordsDecode := by
  unfold Obligations.HandWrittenWordsDecode
  decide

/-! ### the codes of the ports -/

/-- The fields of the item port that carry a value, by `item_kind` (R37, R93). -/
theorem item_fields_valid_iff (i : Item) :
    (i.snowflake ≠ none ↔ i.code = 1 ∨ i.code = 2) ∧ (i.timestamp ≠ none ↔ i.code = 1) ∧ (i.sequence ≠ none ↔ i.code = 2) ∧
    (i.dataLen ≠ none ↔ i.code = 2) ∧ (i.data ≠ none ↔ i.code = 2) ∧ (i.errVal ≠ none ↔ i.code = 7) := by
  cases i with
  | endOfStream => decide
  | packet p =>
    cases p <;> simp [Item.snowflake, Item.timestamp, Item.sequence, Item.dataLen, Item.data, Item.errVal, Item.code]
  | error e =>
    cases e <;> simp [Item.snowflake, Item.timestamp, Item.sequence, Item.dataLen, Item.data, Item.errVal, Item.code]

/-- Code 3 of `kind` is never produced (R94). -/
theorem kindCode_ne_three (k : Kind) : kindCode k ≠ 3 := by cases k <;> decide

/-- Codes 5 to 7 of `DEC.ST` never occur (R95). -/
theorem decSt_code_lt_five (d : DecSt) : d.code.toNat < 5 := by cases d <;> decide

/-- Settles O15: the codes by evaluation, the valid fields and the codes that never occur by cases. -/
theorem portCodes : Obligations.PortCodes :=
  ⟨⟨rfl, fun _ _ => rfl, fun _ _ _ => rfl, rfl, rfl, rfl, rfl, fun _ => rfl⟩,
    item_fields_valid_iff,
    ⟨rfl, rfl, rfl, kindCode_ne_three⟩,
    ⟨rfl, rfl, rfl, rfl, rfl, decSt_code_lt_five⟩,
    ⟨rfl, rfl⟩,
    fun _ _ => ⟨rfl, rfl, rfl, rfl, rfl, rfl, rfl⟩⟩

end Sys2Proof.Machine
end

section
/-! PROOFS. The header codec (40_header_codec.md): `HDR.PACK` writes the two bytes that encode an instruction. -/

namespace Sys2Proof.Machine

/-! ### packing, through the instruction packed -/

theorem hdrPack_of_gt {length : Nat} (tag : U3) (h : 8191 < length) : hdrPack tag length = none :=
  if_neg fun hok => absurd ((hdrPackOk_iff length).mp hok) (by omega)

/-- `HDR.PACK` of an instruction's type code and length gives the instruction's two bytes (R81, R112). -/
theorem hdrPack_instr (i : Instr) : hdrPack i.typeCode i.length.toNat = some (encodeByte0 i, encodeByte1 i) := by
  have hl := i.length.isLt
  have ht := i.typeCode.isLt
  have hok : hdrPackOk i.length.toNat = true := (hdrPackOk_iff _).mpr (by omega)
  have hb0 : BitVec.ofNat 8 (i.length.toNat >>> 5) = encodeByte0 i := by
    apply BitVec.eq_of_toNat_eq
    rw [BitVec.toNat_ofNat, encodeByte0_toNat, Nat.shiftRight_eq_div_pow]
    omega
  have hb1 : BitVec.ofNat 8 ((i.length.toNat &&& 0x1F) <<< 3 ||| i.typeCode.toNat) = encodeByte1 i := by
    have hmask : i.length.toNat &&& 0x1F = i.length.toNat % 32 := and_low_bits _ 5
    apply BitVec.eq_of_toNat_eq
    rw [BitVec.toNat_ofNat, encodeByte1_toNat, hmask, shift_or_low _ 3 _ ht]
    omega
  rw [hdrPack, if_pos hok, hb0, hb1]

/-- A length up to the ceiling is kept by the length field (R83). -/
theorem ofNat_length_toNat {length : Nat} (h : length ≤ 8191) : (BitVec.ofNat 13 length).toNat = length :=
  Nat.mod_eq_of_lt (by omega)

/-- Any tag and any length of the field are those of an instruction, so packing them is packing it (R113). -/
theorem hdrPack_of_le {length : Nat} (tag : U3) (h : length ≤ 8191) :
    hdrPack tag length = some (encodeByte0 (instrOfType tag (BitVec.ofNat 13 length)),
      encodeByte1 (instrOfType tag (BitVec.ofNat 13 length))) := by
  have hpack := hdrPack_instr (instrOfType tag (BitVec.ofNat 13 length))
  rwa [instrOfType_typeCode, instrOfType_length, ofNat_length_toNat h] at hpack

/-! ### unpacking -/

/-- `HDR.UNPACK` of an instruction's two bytes gives its length and its kind. -/
theorem hdrUnpack_encodeBytes (i : Instr) : hdrUnpack (encodeByte0 i) (encodeByte1 i) = (i.length, i.kind) := by
  rw [hdrUnpack_eq, decodeHeader_encodeBytes]

/-- The kind by the number of the tag (R110). -/
theorem kindOf_eq_ite :
    ∀ ty : U3, kindOf ty = if ty.toNat = 1 then .ss else if ty.toNat = 2 then .au else .unknown := by decide

/-- Packing what two bytes unpack to gives the two bytes (R115). -/
theorem hdrPack_hdrUnpack (b0 b1 : Byte) : hdrPack (headerType b1) (hdrUnpack b0 b1).1.toNat = some (b0, b1) := by
  have hbytes : [encodeByte0 (decodeHeader b0 b1), encodeByte1 (decodeHeader b0 b1)] = [b0, b1] :=
    encode_decodeHeader b0 b1
  obtain ⟨hb0, hb1⟩ : encodeByte0 (decodeHeader b0 b1) = b0 ∧ encodeByte1 (decodeHeader b0 b1) = b1 := by
    simpa using hbytes
  rw [hdrUnpack_eq, ← decodeHeader_typeCode b0, hdrPack_instr, hb0, hb1]

/-! ### the obligations -/

/-- Settles O4: the length as a sum, the kind by the number of the low three bits. -/
theorem hdrUnpackIsLengthAndKind : Obligations.HdrUnpackIsLengthAndKind := by
  intro b0 b1
  refine ⟨?_, ?_, ?_, ?_⟩
  · rw [hdrUnpack, headerLength_toNat, Nat.mul_comm]
  · rw [← headerType_toNat]
    exact kindOf_eq_ite (headerType b1)
  · rw [hdrUnpack_eq]
  · rw [hdrUnpack_eq]

/-- Settles O5: below the ceiling the two bytes are those of the instruction packed. -/
theorem hdrPackFormula : Obligations.HdrPackFormula := by
  intro tag length
  refine ⟨hdrPack_of_gt tag, fun h => ⟨_, _, hdrPack_of_le tag h, ?_, ?_⟩⟩
  · rw [encodeByte0_toNat, instrOfType_length, ofNat_length_toNat h]
  · rw [encodeByte1_toNat, instrOfType_length, instrOfType_typeCode, ofNat_length_toNat h]

/-- Settles O6: both directions go through the instruction that the two bytes encode. -/
theorem headerPackUnpackSymmetry : Obligations.HeaderPackUnpackSymmetry := by
  refine ⟨fun tag length h => ⟨_, _, hdrPack_of_le tag h, ?_⟩, ⟨rfl, rfl, ?_⟩, hdrPack_hdrUnpack⟩
  · rw [hdrUnpack_encodeBytes, instrOfType_length, instrOfType_kind]
  · exact fun tag hss hau => (kindOf_eq_unknown_iff tag).mpr ⟨hss, hau⟩

end Sys2Proof.Machine
end

section
/-! PROOFS. The payload marshaller (41_payload_codecs.md): the parsers and serialisers of SpeakingStart and Audio are inverse. -/

namespace Sys2Proof.Machine

/-! ### words and their bytes (R12) -/

/-- A word with a place for every byte of `s` holds the value of `s`. -/
theorem ofNat_beNat_toNat {n : Nat} {s : List Byte} (h : s.length = n) :
    (BitVec.ofNat (8 * n) (beNat s)).toNat = beNat s := by
  subst h
  rw [BitVec.toNat_ofNat, Nat.mod_eq_of_lt (beNat_lt s)]

theorem be64_toNat {s : List Byte} (h : s.length = 8) : (be64 s).toNat = beNat s := ofNat_beNat_toNat h

theorem be16_toNat {s : List Byte} (h : s.length = 2) : (be16 s).toNat = beNat s := ofNat_beNat_toNat h

@[simp] theorem bytes64_length (v : U64) : (bytes64 v).length = 8 := beBytes_length 8 v.toNat

@[simp] theorem bytes16_length (v : U16) : (bytes16 v).length = 2 := beBytes_length 2 v.toNat

@[simp] theorem be64_bytes64 (v : U64) : be64 (bytes64 v) = v := by
  rw [be64, bytes64, beNat_beBytes v.isLt, BitVec.ofNat_toNat, BitVec.setWidth_eq]

@[simp] theorem be16_bytes16 (v : U16) : be16 (bytes16 v) = v := by
  rw [be16, bytes16, beNat_beBytes v.isLt, BitVec.ofNat_toNat, BitVec.setWidth_eq]

theorem bytes64_be64 {s : List Byte} (h : s.length = 8) : bytes64 (be64 s) = s := by
  rw [bytes64, be64_toNat h, ← h, beBytes_beNat]

theorem bytes16_be16 {s : List Byte} (h : s.length = 2) : bytes16 (be16 s) = s := by
  rw [bytes16, be16_toNat h, ← h, beBytes_beNat]

/-! ### SpeakingStart: two fields of 8 bytes -/

theorem ssParse_of_length_ne {buf : List Byte} (h : buf.length ≠ 16) : ssParse buf = none :=
  if_neg fun hok => h ((ssParseOk_iff _).mp hok)

/-- The second field's 8 bytes are all that is left of 16 (R131). -/
theorem ssParse_of_length {buf : List Byte} (h : buf.length = 16) :
    ssParse buf = some (be64 (buf.take 8), be64 (buf.drop 8)) := by
  have hrest : slice buf 8 8 = buf.drop 8 := List.take_of_length_le (by rw [List.length_drop, h])
  rw [ssParse, if_pos ((ssParseOk_iff _).mpr h), hrest, slice, List.drop_zero]

theorem ssParse_append {f g : List Byte} (hf : f.length = 8) (hg : g.length = 8) :
    ssParse (f ++ g) = some (be64 f, be64 g) := by
  rw [ssParse_of_length (by rw [List.length_append, hf, hg]), List.take_left' hf, List.drop_left' hf]

@[simp] theorem ssSer_length (s t : U64) : (ssSer s t).length = 16 := by
  rw [ssSer, List.length_append, bytes64_length, bytes64_length]

theorem ssParse_ssSer (s t : U64) : ssParse (ssSer s t) = some (s, t) := by
  rw [ssSer, ssParse_append (bytes64_length s) (bytes64_length t), be64_bytes64, be64_bytes64]

theorem ssSer_be64 {buf : List Byte} (h : buf.length = 16) : ssSer (be64 (buf.take 8)) (be64 (buf.drop 8)) = buf := by
  rw [ssSer, bytes64_be64 (by rw [List.length_take, h]; rfl), bytes64_be64 (by rw [List.length_drop, h]),
    List.take_append_drop]

/-! ### Audio: fields of 8 and 2 bytes, and the data -/

theorem auParse_of_length_lt {buf : List Byte} (h : buf.length < 10) : auParse buf = none :=
  if_neg fun hok => Nat.not_le_of_lt h ((auParseOk_iff _).mp hok)

theorem auParse_of_length_ge {buf : List Byte} (h : 10 ≤ buf.length) :
    auParse buf = some (be64 (buf.take 8), be16 ((buf.drop 8).take 2), buf.length - 10, buf.drop 10) :=
  if_pos ((auParseOk_iff _).mpr h)

theorem auParse_append {f g : List Byte} (hf : f.length = 8) (hg : g.length = 2) (d : List Byte) :
    auParse (f ++ g ++ d) = some (be64 f, be16 g, d.length, d) := by
  have hfg : (f ++ g).length = 10 := by rw [List.length_append, hf, hg]
  have hlen : (f ++ g ++ d).length = 10 + d.length := by rw [List.length_append, hfg]
  rw [auParse_of_length_ge (by omega), hlen, Nat.add_sub_cancel_left, List.drop_left' hfg, List.append_assoc,
    List.take_left' hf, List.drop_left' hf, List.take_left' hg]

@[simp] theorem auSer_length (s : U64) (q : U16) (d : List Byte) : (auSer s q d).length = 10 + d.length := by
  rw [auSer, List.length_append, List.length_append, bytes64_length, bytes16_length]

theorem auParse_auSer (s : U64) (q : U16) (d : List Byte) : auParse (auSer s q d) = some (s, q, d.length, d) := by
  rw [auSer, auParse_append (bytes64_length s) (bytes16_length q), be64_bytes64, be16_bytes16]

/-- The first 8 bytes and the next 2 of a buffer with at least 10 fill the two fields. -/
theorem auFields_length {buf : List Byte} (h : 10 ≤ buf.length) :
    (buf.take 8).length = 8 ∧ ((buf.drop 8).take 2).length = 2 := by
  simp only [List.length_take, List.length_drop]
  omega

theorem auSer_be64_be16 {buf : List Byte} (h : 10 ≤ buf.length) :
    auSer (be64 (buf.take 8)) (be16 ((buf.drop 8).take 2)) (buf.drop 10) = buf := by
  obtain ⟨hsnowflake, hsequence⟩ := auFields_length h
  have hdata : (buf.drop 8).drop 2 = buf.drop 10 := List.drop_drop
  rw [auSer, bytes64_be64 hsnowflake, bytes16_be16 hsequence, ← hdata, List.append_assoc, List.take_append_drop,
    List.take_append_drop]

/-! ### the obligations -/

/-- Settles O8: each half of the 16 bytes fills its field. -/
theorem ssParseFields : Obligations.SsParseFields := by
  refine fun buf => ⟨ssParse_of_length_ne, fun h => ⟨_, _, ssParse_of_length h, ?_, ?_⟩⟩
  · exact be64_toNat (by rw [List.length_take, h]; rfl)
  · exact be64_toNat (by rw [List.length_drop, h])

/-- Settles O9: a word is the value of its own bytes, and 8 bytes are the bytes of their own value. -/
theorem ssParseSerInverse : Obligations.SsParseSerInverse :=
  ⟨fun s t => ⟨ssSer_length s t, ssParse_ssSer s t⟩, fun _ h => ⟨_, _, ssParse_of_length h, ssSer_be64 h⟩⟩

/-- Settles O10: the first 8 bytes and the next 2 fill their fields. -/
theorem auParseFields : Obligations.AuParseFields := by
  refine fun buf => ⟨auParse_of_length_lt, fun h => ?_⟩
  obtain ⟨hsnowflake, hsequence⟩ := auFields_length h
  exact ⟨_, _, auParse_of_length_ge h, be64_toNat hsnowflake, be16_toNat hsequence⟩

/-- Settles O11: as for SpeakingStart, with the data after the two fields. -/
theorem auParseSerInverse : Obligations.AuParseSerInverse :=
  ⟨fun s q d => ⟨auSer_length s q d, auParse_auSer s q d⟩,
    fun _ h => ⟨_, _, _, _, auParse_of_length_ge h, auSer_be64_be16 h⟩⟩

end Sys2Proof.Machine
end

section
/-! PROOFS of 42_streaming_decoder.md: the transitions with their whole next states (R152 to R171), and that they are total on enabled
events (R151). -/

namespace Sys2Proof.Machine

section
variable {p : Params} {s t : State} {a : Answer}

/-- With no abandoned pull, an answer leads where the rule of its transition says. -/
theorem Transition.decStep_eq (h : Transition p s a t) (hs : s.stale = 0) : decStep p s (.rsp a) = .next t :=
  (decStep_rsp a hs).trans h.onAnswer_eq

/-- The dispatch with an empty buffer: neither known kind has an empty payload (R161, R174 to R176). -/
theorem itemOf_nil (k : Kind) : itemOf k [] = .error (if k = .unknown then .unknownKind else .illegalSizedObject) := by
  cases k <;> rfl

/-- `IDX + 1 = LEN` on the registers is the same on numbers, below `LEN` no index wrapping. -/
theorem idx_succ_eq_iff {i l : U13} (h : i.toNat < l.toNat) : i + 1 = l ↔ i.toNat + 1 = l.toNat := by
  rw [← BitVec.toNat_inj, idx_succ_toNat h]

/-- Nothing is owed exactly after an error at the last payload byte (R166). -/
theorem owed_eq_zero_iff {i l : U13} (h : i.toNat < l.toNat) : l - i - 1 = 0 ↔ i.toNat + 1 = l.toNat := by
  have hzero : BitVec.toNat (0 : U13) = 0 := rfl
  rw [← BitVec.toNat_inj, owed_toNat h, hzero]
  omega

/-- `next` has a transition exactly in IDLE (R152, R153). -/
theorem decStep_cmdNext_iff : (∃ t, decStep p s .cmdNext = .next t) ↔ s.st = .idle := by
  simp only [decStep]
  split <;> simp [*]

/-- Under the invariant an item stands on the port after a transition exactly when it led to IDLE (R172). -/
theorem Transition.item_ne_none_iff (h : Transition p s a t) (hs : Inv p s) : t.item ≠ none ↔ t.st = .idle := by
  by_cases hidle : t.st = .idle
  · refine iff_of_true ?_ hidle
    cases h with
    | headerByte | oversized | payloadBegins | skipBegins => cases hidle
    | byteStored _ hst | elementSkipped _ _ hst => simp [hst] at hidle
    | _ => nofun
  · exact iff_of_false (fun hitem => hitem ((h.inv hs).busy hidle)) hidle

end

/-- Settles O16: accepting `next` writes the state and the item port alone. -/
theorem nextAcceptedOnlyInIdle : Obligations.NextAcceptedOnlyInIdle := by
  intro p s
  refine ⟨fun hst => ⟨s.acceptNext, ?_⟩, fun hst t ht => hst (decStep_cmdNext_iff.mp ⟨t, ht⟩)⟩
  refine ⟨if_pos hst, ?_⟩
  simp [State.srcReq]

/-- Settles O17, by the rules R154, R155 and R156. -/
theorem headerByteZeroTransitions : Obligations.HeaderByteZeroTransitions := by
  intro p s hst hs
  exact ⟨(Transition.headerEnd hst).decStep_eq hs, fun b => (Transition.headerByte b hst).decStep_eq hs,
    fun e => (Transition.headerError e (.inl hst)).decStep_eq hs⟩

/-- Settles O18, by the rules R157 and R159. -/
theorem headerByteOneFailures : Obligations.HeaderByteOneFailures := by
  intro p s hst hs
  exact ⟨(Transition.cutShort (.inl hst)).decStep_eq hs, fun e => (Transition.headerError e (.inr hst)).decStep_eq hs⟩

/-- Settles O19, by the rules R163, R161 and R162. -/
theorem headerCompleteBranches : Obligations.HeaderCompleteBranches := by
  intro p s b l k hst hs hu
  refine ⟨fun hmax => (Transition.oversized b l k hst hu hmax).decStep_eq hs, fun hmax hl => ?_,
    fun hmax hl => (Transition.payloadBegins b l k hst hu hmax hl).decStep_eq hs⟩
  rw [← itemOf_nil]
  exact (Transition.emptyPayload b l k hst hu hmax hl).decStep_eq hs

/-- Settles O20, by the rules R164, R165 and R166, the comparisons of registers being comparisons of numbers. -/
theorem payloadTransitions : Obligations.PayloadTransitions := by
  intro p s hst hs hlt
  have hbuf : s.idx.toNat < Config.bufSize := Nat.lt_of_lt_of_le hlt (Nat.le_of_lt_succ s.len.isLt)
  have hlast := idx_succ_eq_iff hlt
  have howed := owed_eq_zero_iff hlt
  refine ⟨fun b hmore => ?_, fun b hfull => ?_, (Transition.cutShort (.inr hst)).decStep_eq hs, fun e hfull => ?_,
    fun e hmore => ⟨s.len - s.idx - 1, owed_toNat hlt, ?_⟩⟩
  · exact (Transition.byteStored b hst hbuf (mt hlast.mp hmore)).decStep_eq hs
  · exact (Transition.payloadComplete b hst hbuf (hlast.mpr hfull)).decStep_eq hs
  · have h := (Transition.errorAtLastByte (p := p) e hst (howed.mpr hfull)).decStep_eq hs
    rw [howed.mpr hfull] at h
    exact h
  · exact (Transition.skipBegins e hst (mt howed.mp hmore)).decStep_eq hs

/-- Settles O21, by the rules R169, R170 and R171. -/
theorem skipTransitions : Obligations.SkipTransitions := by
  intro p s report hst hs _ hreport
  have hlatched : s.latched = .error report := congrArg Item.error hreport.symm
  refine ⟨fun a ha hlast => ?_, fun a ha hmore => ?_, ?_⟩
  · have h := (Transition.skipComplete (p := p) a ha hst hlast).decStep_eq hs
    rw [h, hlatched, State.count_element ha, State.countDown, hlast]
    rfl
  · have h := (Transition.elementSkipped (p := p) a ha hst hmore).decStep_eq hs
    rw [h, State.count_element ha]
    rfl
  · rw [(Transition.skipEnd (p := p) hst).decStep_eq hs, hlatched]
    rfl

/-- Settles O22: the invariant keeps every payload byte within `BUF`, and item and IDLE come with the same transitions. -/
theorem transitionsTotalOnEnabledEvents : Obligations.TransitionsTotalOnEnabledEvents := by
  intro p s hinv hs
  refine ⟨decStep_cmdNext_iff, fun a => ?_, fun a t ht => ?_⟩
  · rw [decStep_rsp a hs, State.srcReq_iff]
    exact ⟨fun ⟨t, ht⟩ => (Transition.of_onAnswer ht).ne_idle,
      fun hst => onAnswer_total hst (fun h => hinv.live.lt_bufSize h) a⟩
  · rw [decStep_rsp a hs] at ht
    exact (Transition.of_onAnswer ht).item_ne_none_iff hinv

end Sys2Proof.Machine
end

section
/-! PROOFS of 42_streaming_decoder.md: a step is an operation, and an operation is `next` and then single pulls (R151, R177, R185). -/

namespace Sys2Proof.Machine

section
variable {p : Params} {s t : State}

/-- An abandoned pull is left over only before a source that answers nothing more (R185). -/
theorem flushStale_waits (as : List Answer) (h : (flushStale p as s).stale ≠ 0) :
    (flushStale p as s).pullAnswer p = none := by
  induction as generalizing s with
  | nil =>
    unfold flushStale at h ⊢
    split at h
    · rename_i hsilent
      rw [if_pos hsilent]
      exact State.pullAnswer_none.mpr ⟨rfl, hsilent⟩
    · exact absurd rfl h
  | cons a as ih =>
    unfold flushStale at h ⊢
    split at h
    · exact absurd ‹s.stale = 0› h
    · rename_i hstale
      rw [if_neg hstale]
      split at h
      · exact absurd rfl h
      · rename_i hfin
        rw [if_neg hfin]
        exact ih h

/-- An operation ends in IDLE or at a pull the source does not answer. -/
theorem decNext_ends (ht : decNext p s = .next t) : t.st = .idle ∨ t.pullAnswer p = none := by
  unfold decNext at ht
  split at ht
  · cases ht
  · split at ht
    · rename_i hstale
      cases ht
      exact .inr (flushStale_waits _ hstale)
    · exact (resume_keeps (P := fun _ => True) (fun _ _ _ _ => trivial) trivial ht).2

end

/-- Settles O42: the instructions run the same transitions as an operation does without them. -/
theorem stepIsTransitionRun : Obligations.StepIsTransitionRun := step_eq_decNext

/-- Settles O55: the operation's pulls begin where `next` leads, or where the operation stands. -/
theorem operationIsNextThenPulls : Obligations.OperationIsNextThenPulls := by
  intro p s t ht
  refine ⟨commanded s, ?_, decNext_pulled ht, decNext_ends ht⟩
  by_cases hst : s.st = .idle
  · exact .inl ⟨hst, by simp [decStep, commanded, hst]⟩
  · exact .inr ⟨hst, if_neg hst⟩

end Sys2Proof.Machine
end

section
/-! PROOFS of 42_streaming_decoder.md: an instruction by what its source holds: a complete payload, a payload cut short, an error with all
that is owed, an error whose skip is cut short (R161 to R176). -/

namespace Sys2Proof.Machine

section
variable {p : Params} {s : State} {l : U13} {k : Kind} {e : ErrVal} {bs : List Byte} {els as after rest : List Answer}

/-! ### a pull answered END -/

/-- A run whose next pull is answered END is that transition (R154, R157, R165, R170). -/
theorem run_end {t : State} (hend : (s.withSrc after).pullAnswer p = some (.fin, rest))
    (htr : Transition p (s.withSrc rest) .fin t) : run p after s = .next t := by
  have hrun := run_pullAnswer (p := p) (s.withSrc after)
  simp only [hend, State.withSrc_withSrc, htr.onAnswer_eq, htr.idle_of_fin, if_true] at hrun
  exact (run_withSrc after after s).symm.trans hrun

/-- An element answered is the transition on it, and the rest of the operation. -/
theorem run_element {a : Answer} {t : State} (ha : a.isElement = true) (h : onAnswer p a (s.withSrc as) = .next t) :
    run p (a :: as) s = resume p t := by
  have hafter : sourceAfter p a as = as := by cases a <;> [rfl; rfl; cases ha]
  have hsrc : t.src = as := (Transition.of_onAnswer h).src_eq
  simp only [run, hafter, h, resume, hsrc]

/-- A source at END stays there, `SRC_FUSED` being the hardware's contract (R36). -/
theorem pullAnswer_hardware_end (h : (after = [] ∧ s.srcSilent = false) ∨ ∃ more, after = .fin :: more) :
    (s.withSrc after).pullAnswer Config.hardware = some (.fin, after) :=
  State.AtEnd.stays rfl (State.atEnd_iff.mpr h)

/-! ### the skip, which ends at once where nothing is owed -/

/-- With the error latched and `REM` pulls owed: the skip, or its report where none is owed (R163, R166). -/
def State.beginSkip (s : State) : State := if s.rem = 0 then s.emit s.latched else s.enter .skip

theorem payloadError_eq_beginSkip (e : ErrVal) (s : State) :
    payloadError e s = (s.latchTransport (s.len - s.idx - 1) e).beginSkip := rfl

theorem resume_beginSkip (h : s.rem ≠ 0) : resume p s.beginSkip = run p s.src (s.enter .skip) := by
  rw [State.beginSkip, if_neg h]
  rfl

/-- All that is owed is there, bytes or errors: it is skipped, and the latched error reported (R169, R171). -/
theorem resume_beginSkip_full (hsrc : s.src = els ++ rest) (hels : ∀ a ∈ els, a.isElement = true)
    (hlen : els.length = s.rem.toNat) :
    resume p s.beginSkip = .next (((s.skipped els.length).withSrc rest).emit s.latched) := by
  by_cases hrem : s.rem = 0
  · obtain rfl : els = [] := by simpa [hrem] using hlen
    have hskipped : s.skipped 0 = s := by simp [State.skipped]
    have hrest : s.withSrc rest = s := by
      rw [← hsrc.trans (List.nil_append rest)]
      rfl
    rw [State.beginSkip, if_pos hrem, List.length_nil, hskipped, hrest]
    rfl
  · rw [resume_beginSkip hrem, hsrc, run_skip_full els rest (s.enter .skip) rfl hels (one_le_toNat hrem) hlen]
    rfl

/-- The source exhausted before that: the latched error all the same (R170). -/
theorem resume_beginSkip_end (hsrc : s.src = els ++ after) (hels : ∀ a ∈ els, a.isElement = true)
    (hlen : els.length < s.rem.toNat) (hend : (s.withSrc after).pullAnswer p = some (.fin, rest)) :
    resume p s.beginSkip = .next ((((s.skipped els.length).withSrc rest).count .fin).emit s.latched) := by
  have hrem : s.rem ≠ 0 := by
    intro h
    simp [h] at hlen
  rw [resume_beginSkip hrem, hsrc, run_skip_short els after (s.enter .skip) rfl hels hlen]
  exact run_end hend (.skipEnd (s := ((s.enter .skip).skipped els.length).withSrc rest) rfl)

/-! ### one instruction -/

/-- Above the ceiling the whole payload is owed (R163). -/
theorem execHeader_oversized (hmax : p.maxPayload < l.toNat) :
    execHeader p l k s = resume p ((s.latchHeader l k).latchIllegalSize l).beginSkip := by
  have hl : l ≠ 0 := by
    rintro rfl
    exact absurd hmax (Nat.not_lt_zero _)
  rw [execHeader, acceptHeader, if_pos hmax, State.beginSkip, if_neg (by simpa using hl)]

@[simp] theorem State.collecting_idx (s : State) (l : U13) (k : Kind) : (s.collecting l k).idx.toNat = 0 := rfl

/-- Bytes short of the declared length are stored, and the operation is then in PAYLOAD (R162, R164). -/
theorem execHeader_short (hmax : l.toNat ≤ p.maxPayload) (hsrc : s.src = byteAnswers bs ++ as)
    (hlen : bs.length < l.toNat) : execHeader p l k s = run p as ((s.collecting l k).stored bs) := by
  have hl : l ≠ 0 := by
    rintro rfl
    exact absurd hlen (Nat.not_lt_zero _)
  rw [execHeader_payload hmax hl, hsrc, run_bytes_short bs as _ rfl (by rw [State.collecting_idx, Nat.zero_add]; exact hlen)]

/-- The source exhausted before the payload is complete (R165). -/
theorem execHeader_cutShort (hmax : l.toNat ≤ p.maxPayload) (hsrc : s.src = byteAnswers bs ++ after)
    (hlen : bs.length < l.toNat) (hend : (s.withSrc after).pullAnswer p = some (.fin, rest)) :
    execHeader p l k s =
      .next (((((s.latchHeader l k).stored bs).withSrc rest).count .fin).emit (.error .unexpectedTermination)) := by
  rw [execHeader_short hmax hsrc hlen]
  exact run_end hend (.cutShort (s := ((s.collecting l k).stored bs).withSrc rest) (.inr rfl))

/-- After the payload bytes `bs` the error `e` is latched, with `n` elements owed and `as` what the source is to give (R166). -/
def State.brokenOff (s : State) (l : U13) (k : Kind) (bs : List Byte) (e : ErrVal) (n : Nat) (as : List Answer) : State :=
  ((((s.latchHeader l k).stored bs).withSrc as).count (.err e)).latchTransport (BitVec.ofNat 13 n) e

theorem State.brokenOff_rem (s : State) (l : U13) (k : Kind) (bs : List Byte) (e : ErrVal) (as : List Answer) {n : Nat}
    (hn : n < 2 ^ 13) : (s.brokenOff l k bs e n as).rem.toNat = n := Nat.mod_eq_of_lt hn

/-- An error in the payload: what is left of the declared length is owed (R166). -/
theorem execHeader_error {n : Nat} (hmax : l.toNat ≤ p.maxPayload) (hsrc : s.src = byteAnswers bs ++ .err e :: as)
    (hlen : bs.length + 1 + n = l.toNat) :
    execHeader p l k s = resume p (s.brokenOff l k bs e n as).beginSkip := by
  have hl := l.isLt
  have hidx := (s.collecting l k).stored_idx bs (by rw [State.collecting_idx]; omega)
  rw [State.collecting_idx, Nat.zero_add] at hidx
  have howed : ((s.collecting l k).stored bs).len - ((s.collecting l k).stored bs).idx - 1 = BitVec.ofNat 13 n := by
    have hlen' : ((s.collecting l k).stored bs).len.toNat = l.toNat := rfl
    apply BitVec.eq_of_toNat_eq
    rw [owed_toNat (by omega), hlen', hidx, BitVec.toNat_ofNat]
    omega
  have hstep : onAnswer p (.err e) (((s.collecting l k).stored bs).withSrc as) =
      .next (s.brokenOff l k bs e n as).beginSkip := by
    rw [onAnswer_payload _ rfl, onPayload, payloadError_eq_beginSkip, State.count_len, State.count_idx, State.withSrc_len,
      State.withSrc_idx, howed]
    rfl
  rw [execHeader_short hmax hsrc (by omega), run_element rfl hstep]

/-- An instruction on a complete payload: the item is that of the buffer (R164, R173). -/
theorem exec_complete (i : Instr) (hsrc : s.src = byteAnswers bs ++ rest) (hlen : bs.length = i.length.toNat) :
    exec i s = .next { s with
      st := .idle, len := i.length, kind := i.kind, idx := i.length, buf := s.buf.writeBytes 0 bs, item := some (itemOf i.kind bs),
      pos := s.pos + i.length.toNat, pulls := s.pulls + i.length.toNat, src := rest } := by
  rw [exec_eq_execHeader, execHeader_complete bs rest (length_le_hardware _) hsrc hlen]
  simp [State.stored, State.latchHeader, State.withSrc, State.emit, hlen]

end

/-! ### the obligations -/

/-- Settles O30: the buffer of a complete payload is parsed. -/
theorem speakingStartOnCompletePayload : Obligations.SpeakingStartOnCompletePayload := by
  intro l s bytes rest hsrc hlen
  refine ⟨itemOf .ss bytes, ?_, fun hl => ?_, fun hl => ?_⟩
  · exact exec_complete (.speakingStart l) hsrc hlen
  · have h : bytes.length ≠ 16 := fun h => hl (BitVec.eq_of_toNat_eq (hlen.symm.trans h))
    rw [itemOf, ssParse_of_length_ne h]
  · obtain ⟨f, t, hparse, hf, ht⟩ := (ssParseFields bytes).2 (by rw [hlen, hl]; rfl)
    exact ⟨f, t, hf, ht, by rw [itemOf, hparse]⟩

/-- Settles O31: the buffer of a complete payload is parsed. -/
theorem audioOnCompletePayload : Obligations.AudioOnCompletePayload := by
  intro l s bytes rest hsrc hlen
  refine ⟨itemOf .au bytes, exec_complete (.audio l) hsrc hlen, fun hl => ?_, fun hl => ?_⟩
  · rw [itemOf, auParse_of_length_lt (hlen ▸ hl)]
  · obtain ⟨f, q, hparse, hf, hq⟩ := (auParseFields bytes).2 (hlen ▸ hl)
    exact ⟨f, q, hf, hq, by rw [itemOf, hparse]⟩

/-- Settles O32: the buffer of a complete payload is not looked at. -/
theorem unknownOnCompletePayload : Obligations.UnknownOnCompletePayload := by
  intro l s bytes rest i hi hsrc hlen
  rcases hi with rfl | rfl | rfl | rfl | rfl | rfl <;> exact exec_complete _ hsrc hlen

/-- Settles O34: the header transition leads to IDLE with an item, or to a state from which every run goes on to one. -/
theorem instructionsAlwaysComplete : Obligations.InstructionsAlwaysComplete := by
  intro i s
  rw [exec_eq_execHeader, execHeader]
  obtain hactive | ⟨hidle, hitem⟩ := acceptHeader_active Config.hardware i.length i.kind s
  · obtain ⟨t, ht, hend⟩ := run_active (p := Config.hardware) (acceptHeader Config.hardware i.length i.kind s).src hactive
    have hsilent := (acceptHeader_kept Config.hardware i.length i.kind s).2.srcSilent
    exact ⟨t, by rw [resume, if_neg hactive.ne_idle, ht], fun hs => hend (hsilent.trans hs)⟩
  · exact ⟨_, if_pos hidle, fun _ => ⟨hidle, hitem⟩⟩

/-- Settles O35. -/
theorem exhaustedPayloadIsUnexpectedTermination : Obligations.ExhaustedPayloadIsUnexpectedTermination := by
  intro i s bytes after hsrc hlen hend
  rw [exec_eq_execHeader, execHeader_cutShort (length_le_hardware _) hsrc hlen (pullAnswer_hardware_end hend)]
  simp [State.stored, State.latchHeader, State.withSrc, State.count, State.emit]

/-- Settles O36: the error leaves exactly the elements `owed` to be skipped. -/
theorem payloadErrorSkipsAndReportsFirstError : Obligations.PayloadErrorSkipsAndReportsFirstError := by
  intro i s bytes e owed rest hsrc hels hlen
  have hl := i.length.isLt
  have hrem := s.brokenOff_rem i.length i.kind bytes e (owed ++ rest) (n := owed.length) (by omega)
  rw [exec_eq_execHeader, execHeader_error (length_le_hardware _) hsrc hlen, resume_beginSkip_full rfl hels hrem.symm, ← hlen]
  simp [State.skipped, State.brokenOff, State.stored, State.latchHeader, State.latchTransport, State.withSrc, State.count,
    State.emit, State.latched, Nat.add_assoc]

/-- Settles O37: the skip owes more than the elements `owed`. -/
theorem exhaustedSkipReportsLatchedError : Obligations.ExhaustedSkipReportsLatchedError := by
  intro i s bytes e owed after hsrc hels hend hlen
  have hl := i.length.isLt
  obtain ⟨n, hn⟩ : ∃ n, bytes.length + 1 + n = i.length.toNat := ⟨_, Nat.add_sub_cancel' (by omega)⟩
  have hrem := s.brokenOff_rem i.length i.kind bytes e (owed ++ after) (n := n) (by omega)
  have hstays := pullAnswer_hardware_end (s := s.brokenOff i.length i.kind bytes e n (owed ++ after)) hend
  rw [exec_eq_execHeader, execHeader_error (length_le_hardware _) hsrc hn, resume_beginSkip_end rfl hels (by omega) hstays]
  exact ⟨_, rfl, rfl, rfl, rfl, rfl, rfl⟩

/-- Settles O39: the skip owes the whole payload. -/
theorem oversizedPacketIsSkipped : Obligations.OversizedPacketIsSkipped := by
  intro p l k s owed rest hmax hsrc hels hlen
  have hskip := resume_beginSkip_full (p := p) (s := (s.latchHeader l k).latchIllegalSize l) hsrc hels hlen
  rw [execHeader_oversized hmax, hskip]
  simp [State.skipped, State.latchHeader, State.latchIllegalSize, State.withSrc, State.emit, State.latched, hlen]

/-- Settles O47: in HDR0 and in HDR1 an error leads to IDLE. -/
theorem headerErrorLosesSynchronisation : Obligations.HeaderErrorLosesSynchronisation := by
  intro s e rest hst hstale
  rw [step_eq_decNext, decNext_idle _ hst hstale]
  refine ⟨fun hsrc => ?_, fun b hsrc => ?_⟩
  · rw [hsrc, run_element rfl (onAnswer_hdr0 _ rfl), hst]
    rfl
  · rw [hsrc, run_first_byte rfl, run_element rfl (onAnswer_hdr1 _ rfl), hst]
    rfl

end Sys2Proof.Machine
end

section
/-! PROOFS of 42_streaming_decoder.md: an operation from rest is the sequential procedure (R177), and `DecodeAll` terminates (R178). -/

namespace Sys2Proof.Machine

section
variable {p : Params} {s : State} {l : U13} {k : Kind} {n : Nat} {as after rest : List Answer}

/-! ### what the procedure takes from the source -/

/-- A source that gives `after` and is not silent answers a pull END, and then still has `rest` to give (R36). -/
inductive AnswersEnd (p : Params) : List Answer → List Answer → Prop where
  | used : AnswersEnd p [] []
  | fin (more : List Answer) : AnswersEnd p (.fin :: more) (sourceAfter p .fin more)

theorem AnswersEnd.pullAnswer (h : AnswersEnd p after rest) (hs : s.srcSilent = false) :
    (s.withSrc after).pullAnswer p = some (.fin, rest) := by
  cases h with
  | used => simp [State.pullAnswer, hs]
  | fin more => rfl

theorem AnswersEnd.suffix (h : AnswersEnd p after rest) : rest <:+ after := by
  cases h with
  | used => exact List.suffix_rfl
  | fin more =>
    simp only [sourceAfter]
    split
    · exact List.suffix_rfl
    · exact List.suffix_cons _ _

/-- `Skip(n)` takes `n` elements, or fewer where the source is exhausted before. -/
theorem skipPulls_spec (p : Params) (n : Nat) (as : List Answer) :
    ∃ els after, as = els ++ after ∧ (∀ a ∈ els, a.isElement = true) ∧
      ((els.length = n ∧ skipPulls p n as = after) ∨ (els.length < n ∧ AnswersEnd p after (skipPulls p n as))) := by
  induction n generalizing as with
  | zero => exact ⟨[], as, rfl, nofun, .inl ⟨rfl, rfl⟩⟩
  | succ n ih =>
    cases as with
    | nil => exact ⟨[], [], rfl, nofun, .inr ⟨Nat.succ_pos n, .used⟩⟩
    | cons a as =>
      by_cases hfin : a = .fin
      · subst hfin
        exact ⟨[], .fin :: as, rfl, nofun, .inr ⟨Nat.succ_pos n, .fin as⟩⟩
      · have ha : a.isElement = true := by cases a <;> simp_all [Answer.isElement]
        obtain ⟨els, after, rfl, hels, hend⟩ := ih as
        refine ⟨a :: els, after, rfl, by simpa [ha] using hels, ?_⟩
        simpa [skipPulls, hfin] using hend

theorem skipPulls_suffix (p : Params) (n : Nat) (as : List Answer) : skipPulls p n as <:+ as := by
  obtain ⟨els, after, rfl, -, ⟨-, h⟩ | ⟨-, h⟩⟩ := skipPulls_spec p n as
  · rw [h]
    exact List.suffix_append els after
  · exact h.suffix.trans (List.suffix_append els after)

/-- What a source `as` of which `n` payload bytes are pulled holds in front, by what the collecting comes to. -/
def Collected.TakenFrom (p : Params) (n : Nat) (as : List Answer) : Collected → Prop
  | .full bytes rest => as = byteAnswers bytes ++ rest ∧ bytes.length = n
  | .short rest => ∃ bytes after, as = byteAnswers bytes ++ after ∧ bytes.length < n ∧ AnswersEnd p after rest
  | .broken e owed rest => ∃ bytes, as = byteAnswers bytes ++ .err e :: rest ∧ bytes.length + 1 + owed = n

theorem Collected.TakenFrom.cons {c : Collected} (b : Byte) (h : c.TakenFrom p n as) :
    (c.cons b).TakenFrom p (n + 1) (.byte b :: as) := by
  cases c with
  | full bytes rest =>
    obtain ⟨rfl, rfl⟩ := h
    exact ⟨rfl, rfl⟩
  | short rest =>
    obtain ⟨bytes, after, rfl, hlt, hend⟩ := h
    exact ⟨b :: bytes, after, rfl, Nat.succ_lt_succ hlt, hend⟩
  | broken e owed rest =>
    obtain ⟨bytes, rfl, rfl⟩ := h
    exact ⟨b :: bytes, rfl, by simp only [List.length_cons]; omega⟩

theorem collect_takenFrom (p : Params) (n : Nat) (as : List Answer) : (collect p n as).TakenFrom p n as := by
  induction n generalizing as with
  | zero => exact ⟨rfl, rfl⟩
  | succ n ih =>
    match as with
    | [] => exact ⟨[], [], rfl, Nat.succ_pos n, .used⟩
    | .byte b :: as => exact (ih as).cons b
    | .err e :: as => exact ⟨[], rfl, by simp only [List.length_nil]; omega⟩
    | .fin :: as => exact ⟨[], .fin :: as, rfl, Nat.succ_pos n, .fin as⟩

theorem afterHeader_suffix (p : Params) (n : Nat) (k : Kind) (as : List Answer) : (afterHeader p n k as).2 <:+ as := by
  have htaken := collect_takenFrom p n as
  unfold afterHeader
  split
  · exact skipPulls_suffix p n as
  · split <;> rename_i hc <;> rw [hc] at htaken
    · obtain ⟨rfl, -⟩ := htaken
      exact List.suffix_append _ _
    · obtain ⟨bytes, after, rfl, -, hend⟩ := htaken
      exact hend.suffix.trans (List.suffix_append _ _)
    · obtain ⟨bytes, rfl, -⟩ := htaken
      exact ((skipPulls_suffix p _ _).trans (List.suffix_cons _ _)).trans (List.suffix_append _ _)

/-- An operation whose first pull is answered with an element consumes it, and what it leaves is the end of the source (R56). -/
theorem decodeNext_suffix {a : Answer} (ha : a.isElement = true) (as : List Answer) : (decodeNext p (a :: as)).2 <:+ as := by
  match a, as with
  | .err e, as => exact List.suffix_rfl
  | .byte b0, [] => exact List.suffix_rfl
  | .byte b0, .fin :: as => exact (AnswersEnd.fin as).suffix
  | .byte b0, .err e :: as => exact List.suffix_cons _ _
  | .byte b0, .byte b1 :: as => exact (afterHeader_suffix p _ _ as).trans (List.suffix_cons _ _)
  | .fin, _ => cases ha

/-! ### the transitions deliver what the procedure does -/

/-- A result that delivers an item and leaves the source so. -/
def Delivers (r : Result) (o : Item × List Answer) : Prop := ∃ t, r = .next t ∧ t.item = some o.1 ∧ t.src = o.2

/-- A pull answered END, for the procedure as for a run. -/
theorem run_delivers_end {i : Item} (hs : s.srcSilent = false) (hend : AnswersEnd p after rest)
    (htr : Transition p (s.withSrc rest) .fin (((s.withSrc rest).count .fin).emit i)) : Delivers (run p after s) (i, rest) :=
  ⟨_, run_end (hend.pullAnswer hs) htr, rfl, rfl⟩

theorem resume_beginSkip_delivers (hs : s.srcSilent = false) :
    Delivers (resume p s.beginSkip) (s.latched, skipPulls p s.rem.toNat s.src) := by
  obtain ⟨els, after, hsrc, hels, ⟨hlen, hrest⟩ | ⟨hlen, hend⟩⟩ := skipPulls_spec p s.rem.toNat s.src
  · exact ⟨_, resume_beginSkip_full hsrc hels hlen, rfl, hrest.symm⟩
  · exact ⟨_, resume_beginSkip_end hsrc hels hlen (hend.pullAnswer hs), rfl, rfl⟩

/-- Steps 4 to 6 of the procedure (R177). -/
theorem execHeader_delivers (l : U13) (k : Kind) (hs : s.srcSilent = false) :
    Delivers (execHeader p l k s) (afterHeader p l.toNat k s.src) := by
  have htaken := collect_takenFrom p l.toNat s.src
  unfold afterHeader
  split
  · rename_i hmax
    rw [execHeader_oversized hmax]
    exact resume_beginSkip_delivers (s := (s.latchHeader l k).latchIllegalSize l) hs
  · rename_i hmax
    rw [Nat.not_lt] at hmax
    split <;> rename_i hc <;> rw [hc] at htaken
    · obtain ⟨hsrc, hlen⟩ := htaken
      exact ⟨_, execHeader_complete _ _ hmax hsrc hlen, rfl, rfl⟩
    · obtain ⟨bytes, after, hsrc, hlen, hend⟩ := htaken
      exact ⟨_, execHeader_cutShort hmax hsrc hlen (hend.pullAnswer hs), rfl, rfl⟩
    · rename_i e owed rest
      obtain ⟨bytes, hsrc, hlen⟩ := htaken
      have hl := l.isLt
      have hskip := resume_beginSkip_delivers (p := p) (s := s.brokenOff l k bytes e owed rest) hs
      rw [State.brokenOff_rem s l k bytes e rest (by omega)] at hskip
      rw [execHeader_error hmax hsrc hlen]
      exact hskip

/-- From rest an operation is the procedure (R177). -/
theorem decNext_delivers (hs : Ready s) : Delivers (decNext p s) (decodeNext p s.src) := by
  have hq := hs.answering
  rw [decNext_idle p hs.idle hs.fresh]
  match s.src with
  | [] => exact run_delivers_end (s := s.acceptNext) hq .used (.headerEnd rfl)
  | .fin :: as => exact run_delivers_end (s := s.acceptNext) hq (.fin as) (.headerEnd rfl)
  | .err e :: as => exact ⟨_, run_element rfl (onAnswer_hdr0 _ rfl), rfl, rfl⟩
  | .byte b0 :: as =>
    rw [run_first_byte rfl]
    match as with
    | [] => exact run_delivers_end hq .used (.cutShort (.inl rfl))
    | .fin :: as => exact run_delivers_end hq (.fin as) (.cutShort (.inl rfl))
    | .err e :: as => exact ⟨_, run_element rfl (onAnswer_hdr1 _ rfl), rfl, rfl⟩
    | .byte b1 :: as =>
      rw [run_second_byte rfl, decodeNext, hdrUnpack_eq]
      exact execHeader_delivers _ _ hq

/-- From rest an operation delivers what the procedure does, and comes to rest. -/
theorem decNext_decodeNext (p : Params) (hs : Ready s) :
    ∃ t, decNext p s = .next t ∧ Ready t ∧ t.item = some (decodeNext p s.src).1 ∧ t.src = (decodeNext p s.src).2 := by
  obtain ⟨t, ht, hitem, hsrc⟩ := decNext_delivers (p := p) hs
  exact ⟨t, ht, (hs.keeps (P := fun _ => True) (fun _ _ _ _ => trivial) trivial ht).2, hitem, hsrc⟩

/-! ### `DecodeAll` -/

/-- Each operation consumes an element, or delivers the end; so with more fuel than elements one operation more changes nothing. -/
theorem decodeAll_succ {fuel : Nat} {els : List Answer} (hels : ∀ a ∈ els, a.isElement = true) (hfuel : els.length < fuel) :
    decodeAll p (fuel + 1) els = decodeAll p fuel els := by
  induction fuel generalizing els with
  | zero => cases hfuel
  | succ fuel ih =>
    cases els with
    | nil => rfl
    | cons a els =>
      have hsuffix := decodeNext_suffix (p := p) (hels a List.mem_cons_self) els
      have hrest := ih (fun x hx => hels x (List.mem_cons_of_mem a (hsuffix.mem hx)))
        (Nat.lt_of_le_of_lt hsuffix.length_le (Nat.lt_of_succ_lt_succ hfuel))
      rw [decodeAll, hrest, decodeAll]

end

/-- Settles O43, by the cases of the procedure, at any ceiling and at the hardware's. -/
theorem operationIsSequentialProcedure : Obligations.OperationIsSequentialProcedure := by
  refine ⟨fun p s _ hs => decNext_decodeNext p hs, fun s hs => ?_⟩
  rw [step_eq_decNext]
  exact decNext_decodeNext _ hs

/-- Settles O53, by induction on the fuel beyond the number of elements. -/
theorem decodeAllTerminates : Obligations.DecodeAllTerminates := by
  intro p els fuel hels hfuel
  induction fuel, hfuel using Nat.le_induction with
  | base => rfl
  | succ fuel hfuel ih => rw [decodeAll_succ hels hfuel, ih]

end Sys2Proof.Machine
end

section
/-! PROOFS of 42_streaming_decoder.md: an operation consumes the declared payload whatever it holds (R182), and decoding is the inverse
of encoding (R180, R183). -/

namespace Sys2Proof.Machine

/-! ### a packet and its encoding -/

/-- `HDR.PACK` gives two bytes exactly when they unpack to the tag and the length packed (R114, R115). -/
theorem hdrPack_eq_some_iff {tag : U3} {n : Nat} {b0 b1 : Byte} :
    hdrPack tag n = some (b0, b1) ↔ headerType b1 = tag ∧ (hdrUnpack b0 b1).1.toNat = n := by
  constructor
  · intro h
    have hn : n ≤ 8191 := by
      by_contra hgt
      simp [hdrPack_of_gt tag (Nat.lt_of_not_le hgt)] at h
    rw [hdrPack_of_le tag hn] at h
    cases h
    rw [← decodeHeader_typeCode (encodeByte0 _), decodeHeader_encodeBytes, instrOfType_typeCode, hdrUnpack_encodeBytes,
      instrOfType_length]
    exact ⟨rfl, ofNat_length_toNat hn⟩
  · rintro ⟨rfl, rfl⟩
    exact hdrPack_hdrUnpack b0 b1

/-- The two known kinds are of one type code each (R89). -/
theorem kindOf_eq_kindOf_packetTag {ty : U3} (pk : Packet) : kindOf ty = kindOf (packetTag pk) ↔ ty = packetTag pk := by
  have hss : ∀ ty : U3, kindOf ty = kindOf Config.typeSs ↔ ty = Config.typeSs := by decide
  have hau : ∀ ty : U3, kindOf ty = kindOf Config.typeAu ↔ ty = Config.typeAu := by decide
  cases pk with
  | speakingStart f t => exact hss ty
  | audio f q d => exact hau ty

/-- The dispatch delivers a packet exactly from that packet's serialised payload, under its kind (R174, R175). -/
theorem itemOf_eq_packet_iff {k : Kind} {bs : List Byte} {pk : Packet} :
    itemOf k bs = .packet pk ↔ k = kindOf (packetTag pk) ∧ bs = packetPayload pk := by
  constructor
  · intro h
    cases k with
    | unknown => cases h
    | ss =>
      by_cases hlen : bs.length = 16
      · obtain ⟨f, t, hparse, hser⟩ := ssParseSerInverse.2 bs hlen
        rw [itemOf, hparse] at h
        cases h
        exact ⟨rfl, hser.symm⟩
      · simp [itemOf, ssParse_of_length_ne hlen] at h
    | au =>
      by_cases hlen : 10 ≤ bs.length
      · obtain ⟨f, q, m, d, hparse, hser⟩ := auParseSerInverse.2 bs hlen
        rw [itemOf, hparse] at h
        cases h
        exact ⟨rfl, hser.symm⟩
      · simp [itemOf, auParse_of_length_lt (Nat.lt_of_not_le hlen)] at h
  · rintro ⟨rfl, rfl⟩
    cases pk with
    | speakingStart f t =>
      show itemOf .ss (ssSer f t) = _
      rw [itemOf, ssParse_ssSer]
    | audio f q d =>
      show itemOf .au (auSer f q d) = _
      rw [itemOf, auParse_auSer]

/-- An encoding is two header bytes and the serialised payload (R200). -/
theorem encEncode_eq_some_iff {pk : Packet} {out : List Byte} : encEncode pk = some out ↔
    ∃ b0 b1, out = b0 :: b1 :: packetPayload pk ∧ headerType b1 = packetTag pk ∧
      (hdrUnpack b0 b1).1.toNat = (packetPayload pk).length := by
  simp only [← hdrPack_eq_some_iff, encEncode]
  constructor
  · intro h
    split at h
    · rename_i b0 b1 hpack
      cases h
      exact ⟨b0, b1, rfl, hpack⟩
    · cases h
  · rintro ⟨b0, b1, rfl, hpack⟩
    rw [hpack]

/-- The encodings are the headers with a payload of their length from which the dispatch delivers the packet (R206). -/
theorem encEncode_eq_cons_iff {pk : Packet} {b0 b1 : Byte} {bs : List Byte} : encEncode pk = some (b0 :: b1 :: bs) ↔
    bs.length = (hdrUnpack b0 b1).1.toNat ∧ itemOf (hdrUnpack b0 b1).2 bs = .packet pk := by
  have hkind : (hdrUnpack b0 b1).2 = kindOf (headerType b1) := rfl
  rw [itemOf_eq_packet_iff, hkind, kindOf_eq_kindOf_packetTag, encEncode_eq_some_iff]
  constructor
  · rintro ⟨_, _, ⟨⟩, htype, hlen⟩
    exact ⟨hlen.symm, htype, rfl⟩
  · rintro ⟨hlen, htype, rfl⟩
    exact ⟨b0, b1, rfl, htype, hlen.symm⟩

theorem encodeAll_cons {pk : Packet} {pks : List Packet} {bytes : List Byte} (h : encodeAll (pk :: pks) = some bytes) :
    ∃ out outs, encEncode pk = some out ∧ encodeAll pks = some outs ∧ bytes = out ++ outs := by
  unfold encodeAll at h
  split at h
  · rename_i out outs hout houts
    cases h
    exact ⟨out, outs, hout, houts, rfl⟩
  · cases h

section
variable {p : Params} {s t : State} {pk : Packet} {as els rest : List Answer}

/-! ### the procedure on a packet -/

@[simp] theorem byteAnswers_length (bs : List Byte) : (byteAnswers bs).length = bs.length := List.length_map _

theorem byteAnswers_append (bs cs : List Byte) : byteAnswers (bs ++ cs) = byteAnswers bs ++ byteAnswers cs :=
  List.map_append

theorem collect_bytes (p : Params) (bs : List Byte) (rest : List Answer) :
    collect p bs.length (byteAnswers bs ++ rest) = .full bs rest := by
  induction bs with
  | nil => rfl
  | cons b bs ih => exact congrArg (Collected.cons b) ih

/-- An encoding at the front of the source decodes to its packet (R183). -/
theorem decodeNext_encoding {out : List Byte} (h : encEncode pk = some out) (rest : List Answer) :
    decodeNext Config.hardware (byteAnswers out ++ rest) = (.packet pk, rest) := by
  obtain ⟨b0, b1, rfl, -⟩ := encEncode_eq_some_iff.mp h
  obtain ⟨hlen, hitem⟩ := encEncode_eq_cons_iff.mp h
  have hmax := Nat.not_lt.mpr (length_le_hardware (hdrUnpack b0 b1).1)
  show afterHeader Config.hardware (hdrUnpack b0 b1).1.toNat (hdrUnpack b0 b1).2 (byteAnswers (packetPayload pk) ++ rest) = _
  rw [afterHeader, if_neg hmax, ← hlen, collect_bytes]
  exact congrArg (·, rest) hitem

/-- Only a complete payload delivers a packet (R177). -/
theorem afterHeader_packet {n : Nat} {k : Kind} (h : (afterHeader p n k as).1 = .packet pk) :
    ∃ bs rest, as = byteAnswers bs ++ rest ∧ bs.length = n ∧ itemOf k bs = .packet pk := by
  have htaken := collect_takenFrom p n as
  unfold afterHeader at h
  split at h
  · cases h
  · split at h
    · rename_i bs rest hc
      rw [hc] at htaken
      obtain ⟨has, hlen⟩ := htaken
      exact ⟨bs, rest, has, hlen, h⟩
    · cases h
    · cases h

/-- A packet is delivered only from its own encoding at the front of the source. -/
theorem decodeNext_packet (h : (decodeNext p as).1 = .packet pk) :
    ∃ b0 b1 bs rest, as = .byte b0 :: .byte b1 :: (byteAnswers bs ++ rest) ∧ encEncode pk = some (b0 :: b1 :: bs) := by
  match as with
  | .byte b0 :: .byte b1 :: as =>
    obtain ⟨bs, rest, rfl, hlen, hitem⟩ := afterHeader_packet h
    exact ⟨b0, b1, bs, rest, rfl, encEncode_eq_cons_iff.mpr ⟨hlen, hitem⟩⟩
  | [] | .fin :: _ | .err _ :: _ | [.byte _] | .byte _ :: .fin :: _ | .byte _ :: .err _ :: _ => cases h

/-! ### steps from rest -/

/-- A step from rest delivers what the procedure does, and comes to rest (R177). -/
theorem step_decodeNext (hs : Ready s) (ht : step s = .next t) :
    Ready t ∧ t.item = some (decodeNext Config.hardware s.src).1 ∧ t.src = (decodeNext Config.hardware s.src).2 := by
  obtain ⟨u, hu, h⟩ := operationIsSequentialProcedure.2 s hs
  obtain rfl : t = u := by simpa [ht] using hu
  exact h

/-- The items of one operation more: that of the procedure, and those that follow. -/
theorem items_succ (hs : Ready s) :
    ∃ t, Ready t ∧ t.src = (decodeNext Config.hardware s.src).2 ∧
      ∀ n, items (n + 1) s = (decodeNext Config.hardware s.src).1 :: items n t := by
  obtain ⟨t, ht, hready, hitem, hsrc⟩ := operationIsSequentialProcedure.2 s hs
  exact ⟨t, hready, hsrc, fun n => by simp only [items, ht, hitem]⟩

/-- Elements are bytes alone, or bytes and then an error and whatever follows. -/
theorem elements_cases (hels : ∀ a ∈ els, a.isElement = true) :
    (∃ bs, els = byteAnswers bs) ∨ ∃ bs e owed, els = byteAnswers bs ++ .err e :: owed := by
  induction els with
  | nil => exact .inl ⟨[], rfl⟩
  | cons a els ih =>
    cases a with
    | fin => cases hels .fin List.mem_cons_self
    | err e => exact .inr ⟨[], e, els, rfl⟩
    | byte b =>
      obtain ⟨bs, rfl⟩ | ⟨bs, e, owed, rfl⟩ := ih fun x hx => hels x (List.mem_cons_of_mem _ hx)
      · exact .inl ⟨b :: bs, rfl⟩
      · exact .inr ⟨b :: bs, e, owed, rfl⟩

/-- With all its payload elements there, errors among them or not, an instruction consumes exactly those, and its item needs no END. -/
theorem exec_elements (i : Instr) (hsrc : s.src = els ++ rest) (hels : ∀ a ∈ els, a.isElement = true)
    (hlen : els.length = i.length.toNat) :
    ∃ t j, exec i s = .next t ∧ t.item = some j ∧ j.NotOfEnd ∧ t.src = rest ∧ t.pos = s.pos + els.length ∧
      t.pulls = s.pulls + els.length := by
  rw [hlen]
  obtain ⟨bs, rfl⟩ | ⟨bs, e, owed, rfl⟩ := elements_cases hels
  · have h := exec_complete i hsrc (by simpa using hlen)
    exact ⟨_, _, h, rfl, itemOf_notOfEnd _ _, rfl, rfl, rfl⟩
  · simp only [List.length_append, List.length_cons, byteAnswers_length] at hlen
    have h := payloadErrorSkipsAndReportsFirstError i s bs e owed rest (by simpa using hsrc)
      (fun a ha => hels a (by simp [ha])) (by omega)
    exact ⟨_, _, h, rfl, ⟨nofun, nofun⟩, rfl, rfl, rfl⟩

end

/-- Settles O44: the instruction of the header consumes its payload elements, whatever they are. -/
theorem resynchronisation : Obligations.Resynchronisation := by
  intro s b0 b1 els rest hs hsrc hels hlen
  have hstep := stepRunsDecodedInstruction s b0 b1 _ (decodeHeader b0 b1) hs.idle hs.fresh hsrc rfl
  obtain ⟨t, i, ht, hitem, ⟨hend, hcut⟩, hrest, hpos, hpulls⟩ := exec_elements (decodeHeader b0 b1)
    (s := { s with st := .hdr1, b0 := b0, item := none, src := els ++ rest, pos := s.pos + 2, pulls := s.pulls + 2 })
    rfl hels hlen
  have hstep' := hstep.trans ht
  exact ⟨t, i, hstep', (step_decodeNext hs hstep').1, hitem, hend, hcut, hrest, hpos, hpulls⟩

/-- Settles O48: the packet is that of a header and a complete payload, which are its encoding. -/
theorem decodedPacketConsumedExactlyItsEncoding : Obligations.DecodedPacketConsumedExactlyItsEncoding := by
  intro s t pk hs ht hitem
  obtain ⟨-, hitem', -⟩ := step_decodeNext hs ht
  obtain ⟨b0, b1, bs, rest, hsrc, hout⟩ := decodeNext_packet (Option.some.inj (hitem'.symm.trans hitem))
  have hlen : bs.length = (decodeHeader b0 b1).length.toNat := by
    rw [(encEncode_eq_cons_iff.mp hout).1, hdrUnpack_eq]
  have hstep := stepRunsDecodedInstruction s b0 b1 _ (decodeHeader b0 b1) hs.idle hs.fresh hsrc rfl
  rw [ht, exec_complete (decodeHeader b0 b1) rfl hlen, ← hlen] at hstep
  cases hstep
  exact ⟨b0 :: b1 :: bs, hout, hsrc, by simp only [List.length_cons]; omega, by simp only [List.length_cons]; omega⟩

/-- Settles O51, by induction on the packets, each of which the procedure delivers from its encoding. -/
theorem encodeDecodeRoundTrip : Obligations.EncodeDecodeRoundTrip := by
  intro pks
  induction pks with
  | nil =>
    intro bytes s h hs hsrc
    cases h
    obtain ⟨t, -, -, hitems⟩ := items_succ hs
    rw [List.length_nil, hitems, hsrc]
    rfl
  | cons pk pks ih =>
    intro bytes s h hs hsrc
    obtain ⟨out, outs, hout, houts, rfl⟩ := encodeAll_cons h
    obtain ⟨t, hready, hrest, hitems⟩ := items_succ hs
    rw [hsrc, byteAnswers_append, decodeNext_encoding hout] at hrest hitems
    rw [List.length_cons, hitems, ih outs t houts hready hrest]
    rfl

end Sys2Proof.Machine
end

section
/-! PROOFS of 43_encoder.md: what `ENC.ENCODE` gives for every packet (R200 to R204), and that its outputs are one to one with the packets
it accepts and are the well-formed packets of the wire format (R206). -/

namespace Sys2Proof.Machine

/-! ### the output, through the instruction of the header -/

/-- Up to the field ceiling the output is the header of the tag and the payload's length, and the payload (R200, R202). -/
theorem encEncode_of_le {pk : Packet} (h : (packetPayload pk).length ≤ 8191) : encEncode pk =
    some (encode (instrOfType (packetTag pk) (BitVec.ofNat 13 (packetPayload pk).length)) ++ packetPayload pk) := by
  rw [encEncode, hdrPack_of_le (packetTag pk) h]
  rfl

/-- Above the field ceiling there is no output (R203). -/
theorem encEncode_of_gt {pk : Packet} (h : 8191 < (packetPayload pk).length) : encEncode pk = none := by
  rw [encEncode, hdrPack_of_gt (packetTag pk) h]

/-- SpeakingStart has one header word, `00 81` (R204). -/
theorem encEncode_speakingStart (s t : U64) : encEncode (.speakingStart s t) = some (0x00 :: 0x81 :: ssSer s t) := by
  have hlen : (packetPayload (.speakingStart s t)).length = 16 := ssSer_length s t
  have hheader : encode (.speakingStart 16) = [0x00, 0x81] := by decide
  rw [encEncode_of_le (by omega), hlen]
  exact congrArg (fun header => some (header ++ ssSer s t)) hheader

theorem encEncode_audio_of_gt (s : U64) (q : U16) {d : List Byte} (h : 8181 < d.length) :
    encEncode (.audio s q d) = none := by
  have hlen : (packetPayload (.audio s q d)).length = 10 + d.length := auSer_length s q d
  exact encEncode_of_gt (by omega)

theorem encEncode_audio_of_le (s : U64) (q : U16) {d : List Byte} (h : d.length ≤ 8181) :
    encEncode (.audio s q d) = some (encode (.audio (BitVec.ofNat 13 (10 + d.length))) ++ auSer s q d) := by
  have hlen : (packetPayload (.audio s q d)).length = 10 + d.length := auSer_length s q d
  rw [encEncode_of_le (by omega), hlen]
  rfl

/-- Settles O12: the payload is within the field ceiling always for SpeakingStart, and up to 8181 data bytes for Audio. -/
theorem encodeOutcome : Obligations.EncodeOutcome := by
  refine ⟨fun s t => ⟨encEncode_speakingStart s t, ?_⟩,
    fun s q d => ⟨encEncode_audio_of_gt s q, fun h => ⟨encEncode_audio_of_le s q h, ?_⟩⟩⟩
  · simp only [List.length_cons, ssSer_length]
  · rw [List.length_append, auSer_length, encode, List.length_cons, List.length_singleton]
    omega

/-! ### which byte sequences are outputs -/

/-- A header and a payload encode the packet whose tag and serialised payload they hold, the header having the payload's length. -/
theorem encEncode_eq_cons_iff_tag_payload {pk : Packet} {b0 b1 : Byte} {bs : List Byte} :
    encEncode pk = some (b0 :: b1 :: bs) ↔ bs.length = (decodeHeader b0 b1).length.toNat ∧
      (decodeHeader b0 b1).typeCode = packetTag pk ∧ bs = packetPayload pk := by
  rw [encEncode_eq_cons_iff, itemOf_eq_packet_iff, hdrUnpack_eq, kind_eq_kindOf, kindOf_eq_kindOf_packetTag]

/-- An output determines its packet: the dispatch delivers it from the output (R206). -/
theorem encEncode_injective {pk pk' : Packet} {out : List Byte} (h : encEncode pk = some out) (h' : encEncode pk' = some out) :
    pk = pk' := by
  obtain ⟨b0, b1, rfl, -⟩ := encEncode_eq_some_iff.mp h
  obtain ⟨-, hitem⟩ := encEncode_eq_cons_iff.mp h
  obtain ⟨-, hitem'⟩ := encEncode_eq_cons_iff.mp h'
  exact Item.packet.inj (hitem.symm.trans hitem')

/-- The pairs of tag and serialised payload that packets have are those of the two size laws (R86, R87). -/
theorem exists_packet_iff {ty : U3} {bs : List Byte} : (∃ pk, ty = packetTag pk ∧ bs = packetPayload pk) ↔
    (ty = 1 ∧ bs.length = 16) ∨ (ty = 2 ∧ 10 ≤ bs.length) := by
  constructor
  · rintro ⟨pk, rfl, rfl⟩
    cases pk with
    | speakingStart s t => exact .inl ⟨rfl, ssSer_length s t⟩
    | audio s q d => exact .inr ⟨rfl, Nat.le.intro (auSer_length s q d).symm⟩
  · rintro (⟨rfl, hlen⟩ | ⟨rfl, hlen⟩)
    · exact ⟨.speakingStart _ _, rfl, (ssSer_be64 hlen).symm⟩
    · exact ⟨.audio _ _ _, rfl, (auSer_be64_be16 hlen).symm⟩

/-- Settles O13: the packets' tags and payloads are those of the size laws, and the header has the payload's length. -/
theorem encoderOutputsAreTheWellFormedPackets : Obligations.EncoderOutputsAreTheWellFormedPackets := by
  refine ⟨fun _ _ _ => encEncode_injective, fun b0 b1 payload => ?_⟩
  have hsixteen : (decodeHeader b0 b1).length = 16 ↔ (decodeHeader b0 b1).length.toNat = 16 := BitVec.toNat_inj.symm
  simp only [encEncode_eq_cons_iff_tag_payload, exists_and_left, exists_packet_iff, hsixteen]
  exact and_congr_right fun hlen => by rw [hlen]

end Sys2Proof.Machine
end

section
/-! PROOFS of 60_exceptions.md: END is the item exactly of an operation whose first pull is answered END (R217). -/

namespace Sys2Proof.Machine

/-- After a complete header every item is another than END (R177, steps 4 to 6). -/
theorem afterHeader_ne_endOfStream (p : Params) (n : Nat) (k : Kind) (as : List Answer) :
    (afterHeader p n k as).1 ≠ .endOfStream := by
  unfold afterHeader
  split
  · nofun
  · split
    · exact (itemOf_notOfEnd _ _).1
    · nofun
    · nofun

/-- The procedure gives END exactly on a source whose first answer is END (R178). -/
theorem decodeNext_eq_endOfStream_iff {p : Params} {as : List Answer} :
    (decodeNext p as).1 = .endOfStream ↔ as = [] ∨ ∃ more, as = .fin :: more := by
  constructor
  · intro h
    match as with
    | [] => exact .inl rfl
    | .fin :: more => exact .inr ⟨more, rfl⟩
    | .byte _ :: .byte _ :: _ => exact absurd h (afterHeader_ne_endOfStream _ _ _ _)
    | .err _ :: _ | [.byte _] | .byte _ :: .fin :: _ | .byte _ :: .err _ :: _ => cases h
  · rintro (rfl | ⟨more, rfl⟩) <;> rfl

/-- Settles O46: the procedure gives END only on a source at END, where the operation is the one transition on END (R154). -/
theorem cleanEndOnlyAtAPacketBoundary : Obligations.CleanEndOnlyAtAPacketBoundary := by
  intro s t hs ht
  obtain ⟨-, hitem, -⟩ := step_decodeNext hs ht
  have hiff : t.item = some .endOfStream ↔ (s.src = [] ∨ ∃ more, s.src = .fin :: more) := by
    rw [hitem, Option.some.injEq, decodeNext_eq_endOfStream_iff]
  refine ⟨hiff, fun hend => ?_⟩
  have hsrc : s.AtEnd Config.hardware := State.atEnd_iff.mpr ((hiff.mp hend).imp_left (⟨·, hs.answering⟩))
  rw [step_eq_decNext, decNext_atEnd rfl hs hsrc] at ht
  cases ht
  exact ⟨rfl, rfl, rfl⟩

end Sys2Proof.Machine
end

section
/-! PROOFS of 70_reset_and_hazards.md: a reset abandons the operation and its pull, whose late answer is ignored (R250, R251, R253). -/

namespace Sys2Proof.Machine

section
variable {p : Params} {s : State}

/-- With a pull outstanding, a reset abandons one pull more (R251). -/
theorem State.abandoned_of_srcReq (h : s.srcReq = true) : s.abandoned = s.stale + 1 := if_pos h

/-- With no pull outstanding, a reset abandons none. -/
theorem State.abandoned_of_not_srcReq (h : s.srcReq = false) : s.abandoned = s.stale := by
  simp [State.abandoned, h]

/-- With an abandoned pull, an answer is ignored in every state (R251). -/
theorem decStep_rsp_of_stale (a : Answer) (h : 0 < s.stale) : decStep p s (.rsp a) = .next (ignoreStale a s) := if_pos h

/-- An ignored answer is one abandoned pull fewer and moves the counts of consumed elements alone (R251, R56). -/
theorem ignoreStale_eq (a : Answer) (s : State) :
    ignoreStale a s =
      { s with stale := s.stale - 1, pos := (ignoreStale a s).pos, pulls := (ignoreStale a s).pulls } := by
  cases a <;> rfl

/-- An ignored BYTE or ERR is counted in `POS`, an ignored END is not (R29). -/
theorem ignoreStale_pos (a : Answer) (s : State) :
    (ignoreStale a s).pos = s.pos + (if a.isElement then 1 else 0) := by
  cases a <;> rfl

end

/-- Settles O23: the next state is `assertRst`'s; a pull outstanding is the one it abandons, and the next answer is ignored for it. -/
theorem resetAbandonsTheOperation : Obligations.ResetAbandonsTheOperation := by
  intro p s
  refine ⟨s.assertRst, rfl, rfl, rfl, rfl, rfl, rfl, fun hfresh hreq => ?_, fun hfresh hreq a => ?_⟩
  · exact (State.abandoned_of_not_srcReq hreq).trans hfresh
  · have hone : s.assertRst.stale = 1 := (State.abandoned_of_srcReq hreq).trans (by rw [hfresh])
    have hrest := ignoreStale_eq a s.assertRst
    rw [hone] at hrest
    exact ⟨ignoreStale a s.assertRst, decStep_rsp_of_stale a (by omega), hrest, ignoreStale_pos a _⟩

end Sys2Proof.Machine
end
